-- ==== Sys2Proof/Word.lean ====
section
/-! DEFINITION. The plain word types of the model: a byte, the 32-bit command word, and the 32-bit pattern of an IEEE 754
binary32 value (spec/30_encoding.md R81). The arithmetic over them is in Machine/Float.lean and Machine/Crc.lean. -/

namespace Sys2Proof

/-- One u8 of a byte array (spec/20_memory.md R60). -/
abbrev Byte := BitVec 8

/-- A 32-bit command word, or the 32 bits of an operand A or B (spec/30_encoding.md R80, R81). -/
abbrev Word := BitVec 32

/-- An f32: the 32 bits of an IEEE 754 binary32 value, bit 31 the sign, 30:23 the exponent, 22:0 the fraction
(spec/30_encoding.md R81, spec/00_scope.md R14). A structure of its own, so that no integer comparison is taken for one of
values. -/
structure F32 where
  bits : Word
deriving DecidableEq, Repr, Inhabited

/-- The four rounded binary operators of spec/00_scope.md R14 (a difference is an addition). -/
inductive FloatOp where
  | add
  | mul
  | div
deriving DecidableEq, Repr, Inhabited

end Sys2Proof
end

