-- ==== Sys2Proof/Config.lean ====
section
/-! DEFINITION. What an implementation fixes: the constants of spec/00_scope.md R9 (each a name of its own, as
spec/93_implementation_defined.md I1..I9 asks), and the values the spec leaves open, as opaque constants that no proof can
look into (spec/00_scope.md R10; notes/assumptions/6.md and 7.md). -/

namespace Sys2Proof.Config

/-! ## The fixed parameters of R9 -/

/-- NCH: the number of channels. -/
abbrev nch : Nat := 4

/-- PKT_MAX: the length of BUF, PBUF and the longest operand buffer, in bytes. -/
def pktMax : Nat := 1000

/-- FRAME_CAP: the framer's hard cap, in bytes. IDX counts below it (spec/10_state.md R21). -/
abbrev frameCap : Nat := 999

/-- MARKER, the start byte of a frame. -/
def marker : Byte := 0x3D

/-- SHORT_BIT: the header-byte bit that selects short framing. -/
def shortBit : Byte := 0x80

/-- The header byte of the short-command family (spec/30_encoding.md R94). -/
def shortHeader : Byte := 0xC5

/-- The header byte of the long-command family (spec/30_encoding.md R94). -/
def longHeader : Byte := 0x05

/-- CRC8_POLY. -/
def crc8Poly : BitVec 8 := 0x39

/-- CRC8_INIT. -/
def crc8Init : BitVec 8 := 0x66

/-- CRC16_POLY. -/
def crc16Poly : BitVec 16 := 0x1021

/-- CRC16_INIT. -/
def crc16Init : BitVec 16 := 0x913D

/-- ENC_BITS: the width of the encoder angle. -/
abbrev encBits : Nat := 12

/-- ENC_MOD: encoder ticks per revolution and wrap correction. -/
def encMod : Int := 4096

/-- The binary32 of 0.0. -/
def zero : F32 := ⟨0x00000000⟩

/-- The binary32 of 1.0. -/
def one : F32 := ⟨0x3F800000⟩

/-- The binary32 of −1.0. -/
def minusOne : F32 := ⟨0xBF800000⟩

/-- V_MIN, 0.0 V. -/
def vMin : F32 := zero

/-- V_MAX, fl(3.3) V. -/
def vMax : F32 := ⟨0x40533333⟩

/-- V_TAUT, fl(1.85) V. -/
def vTaut : F32 := ⟨0x3FECCCCD⟩

/-- V_SLACK, fl(1.45) V. -/
def vSlack : F32 := ⟨0x3FB9999A⟩

/-- V_SET, fl(1.65) V: the idle setpoint and the lower edge of the in-use band. -/
def vSet : F32 := ⟨0x3FD33333⟩

/-- V_BAND_HI, fl(1.70) V. -/
def vBandHi : F32 := ⟨0x3FD9999A⟩

/-- V_RELEASE, fl(1.55) V. -/
def vRelease : F32 := ⟨0x3FC66666⟩

/-- I_LIM, 1000.0: the magnitude that clamps a PID integral. -/
def iLim : F32 := ⟨0x447A0000⟩

/-- OUT_LIM, 1000.0: the magnitude that clamps a PID output and the PWM. -/
def outLim : F32 := ⟨0x447A0000⟩

/-- DEADBAND, 10.0. -/
def deadband : F32 := ⟨0x41200000⟩

/-- METERS_MAX, 3000.0. -/
def metersMax : F32 := ⟨0x453B8000⟩

/-- 1000.0, the divisor of milliseconds to seconds and of millimetres to metres (spec/42_sensor_mux.md R190). -/
def thousand : F32 := ⟨0x447A0000⟩

/-! ## The wire codes and the frame layout (spec/93_implementation_defined.md I4, I9) -/

/-- The command byte of motion-short (spec/30_encoding.md R96). -/
def cmdMotionShort : Byte := 0x03

/-- The command byte of motion-long (R96). -/
def cmdMotionLong : Byte := 0x04

/-- The command byte of online-detect (R96). -/
def cmdOnlineDetect : Byte := 0x05

/-- The command byte of req-x6 (R96). -/
def cmdReqX6 : Byte := 0x06

/-- The command byte of NFC-detect (R96). -/
def cmdNfcDetect : Byte := 0x07

/-- The command byte of set-filament-info (R96). -/
def cmdSetFilamentInfo : Byte := 0x08

/-- The command byte of heartbeat (R96). -/
def cmdHeartbeat : Byte := 0x20

/-- The type of MC-online (spec/30_encoding.md R97). -/
def typeMcOnline : BitVec 16 := 0x021A

/-- The type of read-filament-info (R97). -/
def typeReadFilamentInfo : BitVec 16 := 0x0211

/-- The type of set-filament-info-v2 (R97). -/
def typeSetFilamentInfoV2 : BitVec 16 := 0x0218

/-- The type of version (R97). -/
def typeVersion : BitVec 16 := 0x0103

/-- The type of serial-number (R97). -/
def typeSerialNumber : BitVec 16 := 0x0402

/-- The bytes of a long frame before its payload: preamble and sub-header (spec/30_encoding.md R92). -/
def longHeaderLen : Nat := 13

/-- The bytes of the trailing CRC16 (R91, R92). -/
def crcLen : Nat := 2

/-- The bytes of a long frame other than its payload: the 15 of `15 + payload_length` (spec/41_packet_codec.md R174). -/
def longOverhead : Nat := longHeaderLen + crcLen

/-- The payload limit of BUILD_LONG: a built packet is no longer than FRAME_CAP (R174, R175). -/
def payMax : Nat := frameCap - longOverhead

/-! ## The open parameters of R10 -/

/-- NUM: the rounded operators and conversions of spec/00_scope.md R14, as one argument of whatever computes with them. Its
default is `F32.binary32` (spec/93_implementation_defined.md I14; notes/assumptions/8.md); a model may substitute another
(spec/92_eei_decisions.md D17). -/
structure Num where
  /-- `fl(x + y)`. -/
  add : F32 → F32 → F32
  /-- `fl(x - y)`. -/
  sub : F32 → F32 → F32
  /-- `fl(x * y)`. -/
  mul : F32 → F32 → F32
  /-- `fl(x / y)`. -/
  div : F32 → F32 → F32
  /-- `i2f(n)` of spec/42_sensor_mux.md R190. -/
  ofInt : Int → F32
  /-- `u64_to_f32(n)`. -/
  ofNat : Nat → F32

/-- The three gains of one PID controller. -/
structure Gains where
  kp : F32
  ki : F32
  kd : F32
deriving DecidableEq, Repr, Inhabited

/-- The numbers among the parameters the source leaves open (spec/00_scope.md R10). -/
structure OpenParams where
  /-- KP_S, KI_S, KD_S. -/
  speedGains : Gains
  /-- KP_P, KI_P, KD_P. -/
  pressureGains : Gains
  /-- V_SEND. -/
  vSend : F32
  /-- V_SEND_LITE. -/
  vSendLite : F32
  /-- V_SEND_CEIL. -/
  vSendCeil : F32
  /-- V_SLOW. -/
  vSlow : F32
  /-- V_PULL. -/
  vPull : F32
  /-- MM_PER_TICK. -/
  mmPerTick : F32
  /-- ASSIST_MS, a u64. -/
  assistMs : BitVec 64
  /-- ASSIST_PWM. -/
  assistPwm : F32
deriving DecidableEq, Repr, Inhabited

/-- The parameters the source leaves open, as one record: "A model takes each of them as a named argument"
(spec/00_scope.md R10). -/
structure Params extends OpenParams where
  /-- NUM. -/
  num : Num

/-- The open numbers of the machine at hand. OPAQUE: no value is given (spec/00_scope.md R10, D40), so a claim proved of it
holds for every choice of them (notes/assumptions/6.md). -/
opaque openParams : OpenParams

/-- The sign (bit 22) and the 22 payload bits of the quiet NaN that an operator makes from two operand patterns. OPAQUE: the
spec states neither (notes/assumptions/7.md). -/
opaque nanBits : FloatOp → Word → Word → BitVec 23

end Sys2Proof.Config
end

