-- ==== Sys2Proof/Machine/Crc.lean ====
section
/-! DEFINITION. The two CRC functions and the byte-order helpers of the wire format (spec/40_frame_decoder.md R120..R122,
spec/00_scope.md R13, spec/20_memory.md R62). -/

namespace Sys2Proof.Machine

/-- One of the 8 rounds of crc8_step (R120): shift left, and fold the polynomial when bit 7 was 1. -/
def crc8Round (c : BitVec 8) : BitVec 8 :=
  if c.msb then (c <<< 1) ^^^ Config.crc8Poly else c <<< 1

/-- `crc8_step(c, b)` (R120). -/
def crc8Step (c : BitVec 8) (b : Byte) : BitVec 8 :=
  crc8Round (crc8Round (crc8Round (crc8Round (crc8Round (crc8Round (crc8Round (crc8Round (c ^^^ b))))))))

/-- `crc8(init, bytes)` (R120). -/
def crc8From (init : BitVec 8) (bytes : List Byte) : BitVec 8 :=
  bytes.foldl crc8Step init

/-- `CRC8(bytes)` (R120). -/
def crc8 (bytes : List Byte) : BitVec 8 :=
  crc8From Config.crc8Init bytes

/-- One of the 8 rounds of crc16_step (R121): shift left, and fold the polynomial when bit 15 was 1. -/
def crc16Round (c : BitVec 16) : BitVec 16 :=
  if c.msb then (c <<< 1) ^^^ Config.crc16Poly else c <<< 1

/-- `crc16_step(c, b)` (R121). -/
def crc16Step (c : BitVec 16) (b : Byte) : BitVec 16 :=
  crc16Round (crc16Round (crc16Round (crc16Round (crc16Round (crc16Round (crc16Round (crc16Round
    (c ^^^ (b.setWidth 16 <<< 8)))))))))

/-- `crc16(init, bytes)` (R121). -/
def crc16From (init : BitVec 16) (bytes : List Byte) : BitVec 16 :=
  bytes.foldl crc16Step init

/-- `CRC16(bytes)` (R121). -/
def crc16 (bytes : List Byte) : BitVec 16 :=
  crc16From Config.crc16Init bytes

/-- The byte at offset `i` of an operand or result buffer. Every caller has checked `i` against the length first (R60). -/
def byteAt (b : List Byte) (i : Nat) : Byte :=
  b.getD i 0

/-- The low byte of a 16-bit field, stored at the lower offset (R62). -/
def lo8 (v : BitVec 16) : Byte :=
  v.extractLsb' 0 8

/-- The high byte of a 16-bit field (R62). -/
def hi8 (v : BitVec 16) : Byte :=
  v.extractLsb' 8 8

/-- The 16-bit field with low byte `lo` and high byte `hi`. -/
def field16 (lo hi : Byte) : BitVec 16 :=
  hi ++ lo

/-- `rd16(B, i)`, the little-endian 16-bit read (spec/00_scope.md R13). -/
def rd16 (b : List Byte) (i : Nat) : BitVec 16 :=
  field16 (byteAt b i) (byteAt b (i + 1))

/-- `wr16(B, i, v)`, the little-endian 16-bit write (spec/00_scope.md R13). -/
def wr16 (b : List Byte) (i : Nat) (v : BitVec 16) : List Byte :=
  (b.set i (lo8 v)).set (i + 1) (hi8 v)

/-- Whether a header byte selects short framing (spec/30_encoding.md R90, R94): its SHORT_BIT is 1. -/
def isShort (h : Byte) : Bool :=
  h &&& Config.shortBit != 0

/-- `crc16_ok(B, n)` with n the length of B (R122): the CRC16 of all but the last two bytes equals those two, low byte
first; false for fewer than two bytes. -/
def crc16Ok (b : List Byte) : Bool :=
  decide (Config.crcLen ≤ b.length) &&
    (crc16 (b.take (b.length - Config.crcLen)) == rd16 b (b.length - Config.crcLen))

end Sys2Proof.Machine
end

