-- ==== Sys2Proof/Syntax.lean ====
section
/-! DEFINITION. The instructions: one constructor per row of spec/opcode_table.json. The 24 command operations carry the
fields of their command word (spec/30_encoding.md R84, R87); their operand bundle travels beside the word and is state. The 16
packet kinds carry the frame bytes that their row leaves free (spec/30_encoding.md R91, R92, R95; notes/assumptions/9.md). -/

namespace Sys2Proof

/-- The PID selector SEL of PID_CLEAR and PID_STEP (spec/30_encoding.md R80): 0 = PIDS, 1 = PIDP. -/
inductive Sel where
  | speed
  | pressure
deriving DecidableEq, Repr, Inhabited

/-- The free bytes of a short-family frame, less its command byte (spec/30_encoding.md R91): offsets 0, 2, 3 and 5..n−3. The
CRC16 is no field: it is determined by the bytes before it. -/
structure ShortFrame where
  marker : Byte
  length : Byte
  crc8 : Byte
  payload : List Byte
deriving DecidableEq, Repr, Inhabited

/-- The free bytes of a long-family frame, less its type (spec/30_encoding.md R92): offset 0, the sub-header at 2..10 and the
data at 13..n−3. The CRC16 is no field: it is determined by the bytes before it. -/
structure LongFrame where
  marker : Byte
  packageNumber : BitVec 16
  packageLength : BitVec 16
  crc8 : Byte
  target : BitVec 16
  source : BitVec 16
  datas : List Byte
deriving DecidableEq, Repr, Inhabited

/-- One instruction: an operation of the command interface, or a wire packet kind (spec/00_scope.md R3). -/
inductive Instr where
  /-- NOP (R249). -/
  | nop
  /-- FEED byte (R124). -/
  | feed (b : Byte)
  /-- FRM_RESET (R130). -/
  | frmReset
  /-- RDPKT (R132). -/
  | rdpkt
  /-- RDFRM (R133). -/
  | rdfrm
  /-- CRC8_CALC over BUFIN (R134). -/
  | crc8Calc
  /-- CRC16_CALC over BUFIN (R135). -/
  | crc16Calc
  /-- IDENTIFY BUFIN (R150). -/
  | identify
  /-- PARSE_LONG BUFIN (R170). -/
  | parseLong
  /-- BUILD_WITH_CRC BUFIN (R172). -/
  | buildWithCrc
  /-- BUILD_LONG HDR, PAY (R174). -/
  | buildLong
  /-- SAMPLE ch (R190). -/
  | sample (ch : BitVec 3)
  /-- RUN ch (R232). -/
  | run (ch : BitVec 3)
  /-- TICK (R248). -/
  | tick
  /-- PID_CLEAR ch, sel (R220). -/
  | pidClear (ch : BitVec 3) (sel : Sel)
  /-- PID_STEP ch, sel, A, B (R221). -/
  | pidStep (ch : BitVec 3) (sel : Sel)
  /-- PWM_SHAPE ch, A (R227). -/
  | pwmShape (ch : BitVec 3)
  /-- SET_MOTION ch, mode (R228). -/
  | setMotion (ch : BitVec 3) (mode : BitVec 3)
  /-- SET_VELOCITY ch, A, B (R229). -/
  | setVelocity (ch : BitVec 3)
  /-- WR_METERS ch, A (R200). -/
  | wrMeters (ch : BitVec 3)
  /-- WR_COLOR ch, A (R201). -/
  | wrColor (ch : BitVec 3)
  /-- CFG_CH ch, dirbit, A (R230). -/
  | cfgCh (ch : BitVec 3) (dir : Bool)
  /-- CFG_DEV lite (R231). -/
  | cfgDev (lite : Bool)
  /-- RD_CH ch (R250). -/
  | rdCh (ch : BitVec 3)
  /-- Kind 1, header 0xC5 and command 0x03 (R155). -/
  | kindMotionShort (f : ShortFrame)
  /-- Kind 2, header 0xC5 and command 0x04 (R156). -/
  | kindMotionLong (f : ShortFrame)
  /-- Kind 3, header 0xC5 and command 0x05 (R157). -/
  | kindOnlineDetect (f : ShortFrame)
  /-- Kind 4, header 0xC5 and command 0x06 (R158). -/
  | kindReqX6 (f : ShortFrame)
  /-- Kind 5, header 0xC5 and command 0x07 (R159). -/
  | kindNfcDetect (f : ShortFrame)
  /-- Kind 6, header 0xC5 and command 0x08 (R160). -/
  | kindSetFilamentInfo (f : ShortFrame)
  /-- Kind 7, header 0xC5 and command 0x20 (R161). -/
  | kindHeartbeat (f : ShortFrame)
  /-- Kind 8, header 0xC5 and any other command (R162). -/
  | kindShortOther (cmd : Byte) (f : ShortFrame)
  /-- Kind 9, header 0x05 and type 0x021A (R163). -/
  | kindMcOnline (f : LongFrame)
  /-- Kind 10, header 0x05 and type 0x0211 (R164). -/
  | kindReadFilamentInfo (f : LongFrame)
  /-- Kind 11, header 0x05 and type 0x0218 (R165). -/
  | kindSetFilamentInfoV2 (f : LongFrame)
  /-- Kind 12, header 0x05 and type 0x0103 (R166). -/
  | kindVersion (f : LongFrame)
  /-- Kind 13, header 0x05 and type 0x0402 (R167). -/
  | kindSerialNumber (f : LongFrame)
  /-- Kind 14, header 0x05 and any other type (R168). -/
  | kindLongOther (type : BitVec 16) (f : LongFrame)
  /-- Kind 0: the CRC16 does not pass (R153). The operand is the whole buffer. -/
  | kindNone (frame : List Byte)
  /-- Kind 15: the CRC16 passes, but no family's discriminator can be read (R169). The operand is the whole buffer. -/
  | kindUnknown (frame : List Byte)
deriving DecidableEq, Repr

end Sys2Proof
end

