-- ==== Sys2Proof/WellFormed.lean ====
section
/-! DEFINITION. Which instructions an encoding can stand for. Every command operation admits all its operands
(spec/30_encoding.md R84: CH 4..7 and mode 7 decode, and the operation answers a status). A packet kind must fit the 1000
bytes of a buffer (spec/20_memory.md R60), and the four kinds that a condition selects must meet it (spec/41_packet_codec.md
R153, R162, R168, R169). -/

namespace Sys2Proof

/-- The command codes of spec/30_encoding.md R96, in the order of their kinds 1..7. -/
def knownCommands : List Byte :=
  [Config.cmdMotionShort, Config.cmdMotionLong, Config.cmdOnlineDetect, Config.cmdReqX6, Config.cmdNfcDetect,
    Config.cmdSetFilamentInfo, Config.cmdHeartbeat]

/-- The type codes of spec/30_encoding.md R97, in the order of their kinds 9..13. -/
def knownTypes : List (BitVec 16) :=
  [Config.typeMcOnline, Config.typeReadFilamentInfo, Config.typeSetFilamentInfoV2, Config.typeVersion,
    Config.typeSerialNumber]

/-- A short-family frame of these bytes fits a buffer: n = 7 + payload (R91). -/
def ShortFrame.fits (f : ShortFrame) : Bool :=
  decide (f.payload.length + 7 ≤ Config.pktMax)

/-- A long-family frame of these bytes fits a buffer: n = 15 + data (R92). -/
def LongFrame.fits (f : LongFrame) : Bool :=
  decide (f.datas.length + Config.longOverhead ≤ Config.pktMax)

/-- No family's discriminator can be read from the frame (spec/41_packet_codec.md R169). -/
def noDiscriminator (b : List Byte) : Bool :=
  let h := Machine.byteAt b 1
  (h != Config.shortHeader && h != Config.longHeader)
    || (h == Config.shortHeader && decide (b.length < 7))
    || (h == Config.longHeader && decide (b.length < Config.longOverhead))

/-- Whether some encoding stands for the instruction. -/
def WellFormed : Instr → Bool
  | .nop | .feed _ | .frmReset | .rdpkt | .rdfrm | .crc8Calc | .crc16Calc | .identify | .parseLong | .buildWithCrc
  | .buildLong | .sample _ | .run _ | .tick | .pidClear _ _ | .pidStep _ _ | .pwmShape _ | .setMotion _ _
  | .setVelocity _ | .wrMeters _ | .wrColor _ | .cfgCh _ _ | .cfgDev _ | .rdCh _ => true
  | .kindMotionShort f | .kindMotionLong f | .kindOnlineDetect f | .kindReqX6 f | .kindNfcDetect f
  | .kindSetFilamentInfo f | .kindHeartbeat f => f.fits
  | .kindShortOther cmd f => f.fits && !knownCommands.contains cmd
  | .kindMcOnline f | .kindReadFilamentInfo f | .kindSetFilamentInfoV2 f | .kindVersion f | .kindSerialNumber f => f.fits
  | .kindLongOther type f => f.fits && !knownTypes.contains type
  | .kindNone b => decide (b.length ≤ Config.pktMax) && !Machine.crc16Ok b
  | .kindUnknown b => decide (b.length ≤ Config.pktMax) && Machine.crc16Ok b && noDiscriminator b

end Sys2Proof
end

