-- ==== Sys2Proof/Decode.lean ====
section
/-! DEFINITION. Decoding the two vocabularies, total on any input and rejecting by name, and the encoder, written from the
same tables (spec/30_encoding.md R80, R84, R85, R87, R91, R92, R95). -/

namespace Sys2Proof

/-- Why an input is no instruction. -/
inductive Reject where
  /-- The OPC is not in the opcode map: status E_OPCODE (R85). -/
  | opcode
  /-- A field fixed to 0 is nonzero: status E_RESERVED (R85). -/
  | reserved
  /-- A wire buffer of more than 1000 bytes, which no operand buffer holds (R60): IDENTIFY answers E_LENGTH. -/
  | length
deriving DecidableEq, Repr

/-- One encoded item: a command word, or the bytes of a wire frame. -/
inductive Encoding where
  | cmd (w : Word)
  | wire (b : List Byte)
deriving DecidableEq, Repr

/-! ## The fields of a command word (R80) -/

/-- OPC, bits 7:0. -/
def opcOf (w : Word) : BitVec 8 := w.extractLsb' 0 8

/-- CH, bits 10:8. -/
def chOf (w : Word) : BitVec 3 := w.extractLsb' 8 3

/-- SEL, bit 11. -/
def selBit (w : Word) : Bool := w.getLsbD 11

/-- RSV, bits 15:12. -/
def rsvOf (w : Word) : BitVec 4 := w.extractLsb' 12 4

/-- IMM, bits 31:16. -/
def immOf (w : Word) : BitVec 16 := w.extractLsb' 16 16

/-- SEL as a selector: 0 = speed, 1 = pressure. -/
def selOf (w : Word) : Sel := if selBit w then .pressure else .speed

/-- The fixed-zero test of R84 and R85: RSV is zero, and so are SEL and CH where they are not free and every bit of IMM
outside `immFree`. -/
def fieldsLegal (chFree selFree : Bool) (immFree : BitVec 16) (w : Word) : Bool :=
  rsvOf w == 0 && (selFree || !selBit w) && (chFree || chOf w == 0) && (immOf w &&& ~~~immFree) == 0

/-- The instruction, when the fixed-zero test passes. -/
def legalOr (ok : Bool) (i : Instr) : Except Reject Instr :=
  if ok then .ok i else .error .reserved

/-- Decoding a command word (R84, R85, R87): the OPC first, then the fixed-zero fields. -/
def decodeCmd (w : Word) : Except Reject Instr :=
  match (opcOf w).toNat with
  | 0x00 => legalOr (fieldsLegal false false 0 w) .nop
  | 0x01 => legalOr (fieldsLegal false false 0x00FF w) (.feed ((immOf w).extractLsb' 0 8))
  | 0x02 => legalOr (fieldsLegal false false 0 w) .frmReset
  | 0x03 => legalOr (fieldsLegal false false 0 w) .rdpkt
  | 0x04 => legalOr (fieldsLegal false false 0 w) .rdfrm
  | 0x08 => legalOr (fieldsLegal false false 0 w) .crc8Calc
  | 0x09 => legalOr (fieldsLegal false false 0 w) .crc16Calc
  | 0x0A => legalOr (fieldsLegal false false 0 w) .identify
  | 0x0B => legalOr (fieldsLegal false false 0 w) .parseLong
  | 0x0C => legalOr (fieldsLegal false false 0 w) .buildWithCrc
  | 0x0D => legalOr (fieldsLegal false false 0 w) .buildLong
  | 0x10 => legalOr (fieldsLegal true false 0 w) (.sample (chOf w))
  | 0x11 => legalOr (fieldsLegal true false 0 w) (.run (chOf w))
  | 0x12 => legalOr (fieldsLegal false false 0 w) .tick
  | 0x13 => legalOr (fieldsLegal true true 0 w) (.pidClear (chOf w) (selOf w))
  | 0x14 => legalOr (fieldsLegal true true 0 w) (.pidStep (chOf w) (selOf w))
  | 0x15 => legalOr (fieldsLegal true false 0 w) (.pwmShape (chOf w))
  | 0x16 => legalOr (fieldsLegal true false 0x0007 w) (.setMotion (chOf w) ((immOf w).extractLsb' 0 3))
  | 0x17 => legalOr (fieldsLegal true false 0 w) (.setVelocity (chOf w))
  | 0x18 => legalOr (fieldsLegal true false 0 w) (.wrMeters (chOf w))
  | 0x19 => legalOr (fieldsLegal true false 0 w) (.wrColor (chOf w))
  | 0x1A => legalOr (fieldsLegal true false 0x0001 w) (.cfgCh (chOf w) ((immOf w).getLsbD 0))
  | 0x1B => legalOr (fieldsLegal false false 0x0001 w) (.cfgDev ((immOf w).getLsbD 0))
  | 0x1C => legalOr (fieldsLegal true false 0 w) (.rdCh (chOf w))
  | _ => .error .opcode

/-! ## Wire frames -/

/-- The free bytes of a short-family frame of n ≥ 7 bytes (R91). -/
def shortFrameOf (b : List Byte) : ShortFrame :=
  { marker := Machine.byteAt b 0, length := Machine.byteAt b 2, crc8 := Machine.byteAt b 3,
    payload := (b.drop 5).take (b.length - 7) }

/-- The free bytes of a long-family frame of n ≥ 15 bytes (R92). -/
def longFrameOf (b : List Byte) : LongFrame :=
  { marker := Machine.byteAt b 0, packageNumber := Machine.rd16 b 2, packageLength := Machine.rd16 b 4,
    crc8 := Machine.byteAt b 6, target := Machine.rd16 b 7, source := Machine.rd16 b 9,
    datas := (b.drop Config.longHeaderLen).take (b.length - Config.longOverhead) }

/-- The kind that a short command byte selects (R96). -/
def shortInstr (cmd : Byte) (f : ShortFrame) : Instr :=
  if cmd = Config.cmdMotionShort then .kindMotionShort f
  else if cmd = Config.cmdMotionLong then .kindMotionLong f
  else if cmd = Config.cmdOnlineDetect then .kindOnlineDetect f
  else if cmd = Config.cmdReqX6 then .kindReqX6 f
  else if cmd = Config.cmdNfcDetect then .kindNfcDetect f
  else if cmd = Config.cmdSetFilamentInfo then .kindSetFilamentInfo f
  else if cmd = Config.cmdHeartbeat then .kindHeartbeat f
  else .kindShortOther cmd f

/-- The kind that a long type selects (R97). -/
def longInstr (type : BitVec 16) (f : LongFrame) : Instr :=
  if type = Config.typeMcOnline then .kindMcOnline f
  else if type = Config.typeReadFilamentInfo then .kindReadFilamentInfo f
  else if type = Config.typeSetFilamentInfoV2 then .kindSetFilamentInfoV2 f
  else if type = Config.typeVersion then .kindVersion f
  else if type = Config.typeSerialNumber then .kindSerialNumber f
  else .kindLongOther type f

/-- Decoding a wire frame (R95): the CRC16 first, then the header byte, then the family's discriminator. -/
def decodeWire (b : List Byte) : Except Reject Instr :=
  if Config.pktMax < b.length then .error .length
  else if !Machine.crc16Ok b then .ok (.kindNone b)
  else if noDiscriminator b then .ok (.kindUnknown b)
  else if Machine.byteAt b 1 = Config.shortHeader then .ok (shortInstr (Machine.byteAt b 4) (shortFrameOf b))
  else .ok (longInstr (Machine.rd16 b 11) (longFrameOf b))

/-- Decoding either vocabulary. -/
def decode : Encoding → Except Reject Instr
  | .cmd w => decodeCmd w
  | .wire b => decodeWire b

/-! ## The encoder -/

/-- A command word from its fields (R80), RSV zero. -/
def cmdWord (opc : BitVec 8) (ch : BitVec 3) (sel : Bool) (imm : BitVec 16) : Word :=
  imm ++ (0#4 ++ (BitVec.ofBool sel ++ (ch ++ opc)))

/-- SEL of a selector. -/
def Sel.bit : Sel → Bool
  | .speed => false
  | .pressure => true

/-- A frame closed by the CRC16 of its bytes, low byte first (R93). -/
def withCrc16 (b : List Byte) : List Byte :=
  b ++ [Machine.lo8 (Machine.crc16 b), Machine.hi8 (Machine.crc16 b)]

/-- The bytes of a short-family frame before its CRC16 (R91). -/
def ShortFrame.body (cmd : Byte) (f : ShortFrame) : List Byte :=
  [f.marker, Config.shortHeader, f.length, f.crc8, cmd] ++ f.payload

/-- The bytes of a long-family frame before its CRC16 (R92). -/
def LongFrame.body (type : BitVec 16) (f : LongFrame) : List Byte :=
  [f.marker, Config.longHeader, Machine.lo8 f.packageNumber, Machine.hi8 f.packageNumber, Machine.lo8 f.packageLength,
    Machine.hi8 f.packageLength, f.crc8, Machine.lo8 f.target, Machine.hi8 f.target, Machine.lo8 f.source,
    Machine.hi8 f.source, Machine.lo8 type, Machine.hi8 type] ++ f.datas

/-- A short-family frame. -/
def encodeShort (cmd : Byte) (f : ShortFrame) : Encoding :=
  .wire (withCrc16 (f.body cmd))

/-- A long-family frame. -/
def encodeLong (type : BitVec 16) (f : LongFrame) : Encoding :=
  .wire (withCrc16 (f.body type))

/-- The encoding of an instruction (R84, R87, R91, R92, R95). -/
def encode : Instr → Encoding
  | .nop => .cmd (cmdWord 0x00 0 false 0)
  | .feed b => .cmd (cmdWord 0x01 0 false (b.setWidth 16))
  | .frmReset => .cmd (cmdWord 0x02 0 false 0)
  | .rdpkt => .cmd (cmdWord 0x03 0 false 0)
  | .rdfrm => .cmd (cmdWord 0x04 0 false 0)
  | .crc8Calc => .cmd (cmdWord 0x08 0 false 0)
  | .crc16Calc => .cmd (cmdWord 0x09 0 false 0)
  | .identify => .cmd (cmdWord 0x0A 0 false 0)
  | .parseLong => .cmd (cmdWord 0x0B 0 false 0)
  | .buildWithCrc => .cmd (cmdWord 0x0C 0 false 0)
  | .buildLong => .cmd (cmdWord 0x0D 0 false 0)
  | .sample c => .cmd (cmdWord 0x10 c false 0)
  | .run c => .cmd (cmdWord 0x11 c false 0)
  | .tick => .cmd (cmdWord 0x12 0 false 0)
  | .pidClear c s => .cmd (cmdWord 0x13 c s.bit 0)
  | .pidStep c s => .cmd (cmdWord 0x14 c s.bit 0)
  | .pwmShape c => .cmd (cmdWord 0x15 c false 0)
  | .setMotion c m => .cmd (cmdWord 0x16 c false (m.setWidth 16))
  | .setVelocity c => .cmd (cmdWord 0x17 c false 0)
  | .wrMeters c => .cmd (cmdWord 0x18 c false 0)
  | .wrColor c => .cmd (cmdWord 0x19 c false 0)
  | .cfgCh c d => .cmd (cmdWord 0x1A c false ((BitVec.ofBool d).setWidth 16))
  | .cfgDev l => .cmd (cmdWord 0x1B 0 false ((BitVec.ofBool l).setWidth 16))
  | .rdCh c => .cmd (cmdWord 0x1C c false 0)
  | .kindMotionShort f => encodeShort Config.cmdMotionShort f
  | .kindMotionLong f => encodeShort Config.cmdMotionLong f
  | .kindOnlineDetect f => encodeShort Config.cmdOnlineDetect f
  | .kindReqX6 f => encodeShort Config.cmdReqX6 f
  | .kindNfcDetect f => encodeShort Config.cmdNfcDetect f
  | .kindSetFilamentInfo f => encodeShort Config.cmdSetFilamentInfo f
  | .kindHeartbeat f => encodeShort Config.cmdHeartbeat f
  | .kindShortOther cmd f => encodeShort cmd f
  | .kindMcOnline f => encodeLong Config.typeMcOnline f
  | .kindReadFilamentInfo f => encodeLong Config.typeReadFilamentInfo f
  | .kindSetFilamentInfoV2 f => encodeLong Config.typeSetFilamentInfoV2 f
  | .kindVersion f => encodeLong Config.typeVersion f
  | .kindSerialNumber f => encodeLong Config.typeSerialNumber f
  | .kindLongOther type f => encodeLong type f
  | .kindNone b => .wire b
  | .kindUnknown b => .wire b

/-! ## Command words as bytes, and the rows of the opcode table -/

/-- A command word serialised, low byte first (spec/20_memory.md R65). -/
def bytesOfWord (w : Word) : List Byte :=
  [w.extractLsb' 0 8, w.extractLsb' 8 8, w.extractLsb' 16 8, w.extractLsb' 24 8]

/-- The command word of four serialised bytes (spec/20_memory.md R65); absent bytes read as 0. -/
def wordOfBytes (b : List Byte) : Word :=
  Machine.byteAt b 3 ++ (Machine.byteAt b 2 ++ (Machine.byteAt b 1 ++ Machine.byteAt b 0))

/-- The `k` bytes of the number `w`, most significant first: the table numbers a wire row's window with "byte 0 most
significant". -/
def windowBytes (k w : Nat) : List Byte :=
  (List.range k).map fun i => BitVec.ofNat 8 (w / 256 ^ (k - 1 - i))

/-- What a table row's bits stand for. A 32-bit row is a command word. A wire row is the window at the start of a frame; a
window of two or more bytes is closed by its CRC16, the precondition its row names (notes/assumptions/9.md). -/
def tableEncoding (nbits w : Nat) : Encoding :=
  if nbits = 32 then .cmd (wordOfBytes (bytesOfWord (BitVec.ofNat 32 w)))
  else if nbits < 16 then .wire (windowBytes (nbits / 8) w)
  else .wire (withCrc16 (windowBytes (nbits / 8) w))

/-- The instruction the decoder reads from the bits `w` of a table row of `nbits` bits. -/
def decodeTableWord (nbits w : Nat) : Option Instr :=
  match decode (tableEncoding nbits w) with
  | .ok i => some i
  | .error _ => none

end Sys2Proof
end

