-- ==== Sys2Proof/Machine/Float.lean ====
section
/-! DEFINITION. IEEE 754 binary32 arithmetic as spec/00_scope.md R14 asks for it: every operator rounded on its own to
nearest-even, IEEE comparisons, and the named conversions. A finite value is held exactly as an integer in units of 2^-149,
so that every rule is arithmetic on Nat and Int followed by one rounding (notes/assumptions/8.md). The operations of the block
take these operators as the parameter NUM, of which `F32.binary32` is the default. -/

namespace Sys2Proof.F32

/-- The sign bit. -/
def neg (x : F32) : Bool :=
  x.bits.msb

/-- Exponent and fraction together, as a number: the magnitudes of binary32 in increasing order. -/
def mag (x : F32) : Nat :=
  x.bits.toNat % 2 ^ 31

/-- The magnitude of infinity. -/
def magInf : Nat := 0x7F800000

/-- The magnitude `m` in units of 2^-149, exact for a finite magnitude; for infinity the first value past them all. -/
def magValue (m : Nat) : Nat :=
  if m < 2 ^ 23 then m else (2 ^ 23 + m % 2 ^ 23) * 2 ^ (m / 2 ^ 23 - 1)

/-- The value of a number in units of 2^-149, with its sign. -/
def value (x : F32) : Int :=
  if x.neg then -(magValue x.mag : Int) else (magValue x.mag : Int)

/-- Whether `x` is a NaN. -/
def isNaN (x : F32) : Bool :=
  decide (magInf < x.mag)

/-- Whether `x` is an infinity. -/
def isInf (x : F32) : Bool :=
  decide (x.mag = magInf)

/-- `isfinite(x)` (R14): false for an infinity and a NaN. -/
def isFinite (x : F32) : Bool :=
  decide (x.mag < magInf)

/-- Whether `x` is +0.0 or −0.0. -/
def isZero (x : F32) : Bool :=
  decide (x.mag = 0)

/-- The pattern with the given sign and magnitude. -/
def ofParts (neg : Bool) (m : Nat) : F32 :=
  ⟨BitVec.ofNat 32 ((if neg then 2 ^ 31 else 0) + m)⟩

/-- The quiet NaN an operator answers where IEEE 754 has no number: sign and payload free (notes/assumptions/7.md). -/
def makeNaN (op : FloatOp) (x y : F32) : F32 :=
  let f := Config.nanBits op x.bits y.bits
  ⟨BitVec.ofBool f.msb ++ (0x1FF#9 ++ f.extractLsb' 0 22)⟩

/-- Round-to-nearest, ties to even, of num / den. -/
def nearestEven (num den : Nat) : Nat :=
  let q := num / den
  let r := num % den
  if 2 * r > den ∨ (2 * r = den ∧ q % 2 = 1) then q + 1 else q

/-- The magnitude nearest to (num / den) · 2^-149: the quotient keeps 24 bits, a carry out of them moves into the exponent
field, and anything past the largest finite value is infinity. -/
def roundMag (num den : Nat) : Nat :=
  let e := (num / den).log2 - 23
  min (e * 2 ^ 23 + nearestEven num (den * 2 ^ e)) magInf

/-- `fl` of ±(num / den) · 2^-149. -/
def round (neg : Bool) (num den : Nat) : F32 :=
  ofParts neg (roundMag num den)

/-- −x. -/
def negate (x : F32) : F32 :=
  ofParts (!x.neg) x.mag

/-- `fl(x + y)` (R14). -/
def add (x y : F32) : F32 :=
  if x.isNaN || y.isNaN then makeNaN .add x y
  else if x.isInf then (if y.isInf && (x.neg != y.neg) then makeNaN .add x y else x)
  else if y.isInf then y
  else
    let z := x.value + y.value
    if z = 0 then ofParts (x.neg && y.neg) 0 else round (decide (z < 0)) z.natAbs 1

/-- `fl(x - y)` (R14). -/
def sub (x y : F32) : F32 :=
  add x (negate y)

/-- `fl(x * y)` (R14). -/
def mul (x y : F32) : F32 :=
  if x.isNaN || y.isNaN || (x.isInf && y.isZero) || (x.isZero && y.isInf) then makeNaN .mul x y
  else if x.isInf || y.isInf then ofParts (x.neg != y.neg) magInf
  else round (x.neg != y.neg) (magValue x.mag * magValue y.mag) (2 ^ 149)

/-- `fl(x / y)` (R14). -/
def div (x y : F32) : F32 :=
  if x.isNaN || y.isNaN || (x.isInf && y.isInf) || (x.isZero && y.isZero) then makeNaN .div x y
  else if x.isInf || y.isZero then ofParts (x.neg != y.neg) magInf
  else if y.isInf then ofParts (x.neg != y.neg) 0
  else round (x.neg != y.neg) (magValue x.mag * 2 ^ 149) (magValue y.mag)

/-- `x < y`, false when either is a NaN (R14). -/
def lt (x y : F32) : Bool :=
  !x.isNaN && !y.isNaN && decide (x.value < y.value)

/-- `x <= y`, false when either is a NaN (R14). -/
def le (x y : F32) : Bool :=
  !x.isNaN && !y.isNaN && decide (x.value ≤ y.value)

/-- `x == y`, false when either is a NaN (R14); −0.0 equals +0.0. -/
def eq (x y : F32) : Bool :=
  !x.isNaN && !y.isNaN && decide (x.value = y.value)

/-- `abs(x)` clears the sign (R14). -/
def abs (x : F32) : F32 :=
  ofParts false x.mag

/-- `sign(x)` (R14): ±1.0 for a nonzero number, 0.0 otherwise (a zero or a NaN). -/
def sign (x : F32) : F32 :=
  if lt Config.zero x then Config.one else if lt x Config.zero then Config.minusOne else Config.zero

/-- `clampf(x, lo, hi)` (R14): lo if x < lo, hi if x > hi, 0.0 if x is a NaN, and x otherwise. -/
def clampf (x lo hi : F32) : F32 :=
  if lt x lo then lo else if lt hi x then hi else if x.isNaN then Config.zero else x

/-- `fl(n)` of an integer: `i2f` of spec/42_sensor_mux.md R190. -/
def ofInt (i : Int) : F32 :=
  round (decide (i < 0)) (i.natAbs * 2 ^ 149) 1

/-- `u64_to_f32(n)` (R14). -/
def ofNat (n : Nat) : F32 :=
  round false (n * 2 ^ 149) 1

/-- `fl` of the decimal ±(num / den), as a literal such as 1.85 is read (R14). -/
def ofRatio (neg : Bool) (num den : Nat) : F32 :=
  round neg (num * 2 ^ 149) den

/-- `trunc16(x)` (R14): a finite value rounded toward zero, as an s16. -/
def trunc16 (x : F32) : BitVec 16 :=
  BitVec.ofInt 16 (if x.neg then -((magValue x.mag / 2 ^ 149 : Nat) : Int) else ((magValue x.mag / 2 ^ 149 : Nat) : Int))

/-- What a status output reports of an f32: a value that is not finite reads as 0.0 (spec/43_motor_pid.md R250). -/
def finiteOrZero (x : F32) : F32 :=
  if x.isFinite then x else Config.zero

/-- NUM at its default: every operator and conversion is binary32's (spec/92_eei_decisions.md D17). -/
def binary32 : Config.Num :=
  { add := add, sub := sub, mul := mul, div := div, ofInt := ofInt, ofNat := ofNat }

end Sys2Proof.F32

namespace Sys2Proof

/-- The parameters of the machine at hand (spec/00_scope.md R10): the open numbers, and NUM at its default. -/
def Config.params : Config.Params :=
  { Config.openParams with num := F32.binary32 }

end Sys2Proof
end

