-- ==== Sys2Proof/Machine/State.lean ====
section
/-! DEFINITION. The state as plain data: everything spec/10_state.md gives the block, its ports (R45), and the requests that
wait on CMD (spec/20_memory.md R72, R73). INVENTORY.md lists each field with its rule and its reset value. -/

namespace Sys2Proof.Machine

/-- Why a run could stop with a fault. It has no constructor: "The block never halts, hangs or enters a fault state"
(spec/60_exceptions.md R274); every error is a status in the result. -/
inductive Fault where
deriving DecidableEq, Repr

/-- Why an instruction could be refused. -/
inductive Refusal where
  /-- Raised by `exec`'s arm of an instruction that has no meaning yet, and by nothing else. Safe: the run stops. No arm of
  this model raises it. -/
  | notModelled (mnemonic : String)
deriving DecidableEq, Repr

/-! ## Memory -/

/-- The contents of one byte array (spec/20_memory.md R60), offset by offset, in the canonical form `Memory.wf` of
Machine/Ops.lean. -/
abbrev Memory := List Host.Cell

/-! ## Small types of registers and results -/

/-- FS (spec/10_state.md R20). -/
inductive Phase where
  | seeking
  | framing
deriving DecidableEq, Repr

/-- MOTION[c] (spec/10_state.md R28). Code 7 is "never held", so it is no value. -/
inductive Motion where
  | stop
  | send
  | pull
  | slowSend
  | pressureIdle
  | pressureInUse
  | velocity
deriving DecidableEq, Repr

/-- TENS[c] (spec/10_state.md R34). -/
inductive Tension where
  | normal
  | taut
  | slack
deriving DecidableEq, Repr

/-- The result statuses (spec/60_exceptions.md R270). -/
inductive Status where
  | ok
  | eOpcode
  | eReserved
  | eChannel
  | eLength
  | eOperand
deriving DecidableEq, Repr

/-- FEED's frame status (spec/40_frame_decoder.md R123). -/
inductive FrameStatus where
  | incomplete
  | ready
  | invalid
deriving DecidableEq, Repr

/-- The packet kinds IDENTIFY answers (spec/30_encoding.md R95). -/
inductive PacketKind where
  | none
  | motionShort
  | motionLong
  | onlineDetect
  | reqX6
  | nfcDetect
  | setFilamentInfo
  | heartbeat
  | shortOther
  | mcOnline
  | readFilamentInfo
  | setFilamentInfoV2
  | version
  | serialNumber
  | longOther
  | unknown
deriving DecidableEq, Repr

/-- LED[c] (spec/10_state.md R33). -/
structure Rgb where
  r : Byte
  g : Byte
  b : Byte
deriving DecidableEq, Repr

/-- COLOR[c] (spec/10_state.md R39). -/
structure Rgba where
  r : Byte
  g : Byte
  b : Byte
  a : Byte
deriving DecidableEq, Repr

/-- One PID controller's state (spec/10_state.md R29). -/
structure Pid where
  /-- I, the integral term. -/
  i : F32
  /-- EPREV, the previous error. -/
  eprev : F32
deriving DecidableEq, Repr

/-! ## One channel -/

/-- The registers of one channel (spec/10_state.md R28..R37, R39). -/
structure Channel where
  /-- MOTION (R28). -/
  motion : Motion
  /-- PIDS (R29). -/
  pids : Pid
  /-- PIDP (R29). -/
  pidp : Pid
  /-- TV (R30). -/
  tv : F32
  /-- TD (R30). -/
  td : F32
  /-- AD (R30). -/
  ad : F32
  /-- LATCH (R31). -/
  latch : Bool
  /-- PWM, an s16 (R32). -/
  pwm : BitVec 16
  /-- LED (R33). -/
  led : Rgb
  /-- V (R34). -/
  v : F32
  /-- TENS (R34). -/
  tens : Tension
  /-- PRES (R35). -/
  pres : Bool
  /-- T_LOST (R35). -/
  tLost : BitVec 64
  /-- LOST_VALID (R35). -/
  lostValid : Bool
  /-- ENC_PREV (R35). -/
  encPrev : BitVec Config.encBits
  /-- ENC_VALID (R35). -/
  encValid : Bool
  /-- DIST (R35). -/
  dist : F32
  /-- SPEED (R35). -/
  speed : F32
  /-- DT (R35). -/
  dt : F32
  /-- T_PREV (R35). -/
  tPrev : BitVec 64
  /-- METERS (R35). -/
  meters : F32
  /-- DIR: false = +1, true = −1 (R36). -/
  dir : Bool
  /-- PWM_ZERO (R37). -/
  pwmZero : F32
  /-- COLOR (R39). -/
  color : Rgba
deriving DecidableEq, Repr

/-! ## Ports -/

/-- The three sensor ports of one channel (spec/10_state.md R45). -/
structure Sensors where
  /-- VIN. -/
  vin : F32
  /-- PIN. -/
  pin : Bool
  /-- ENC. -/
  enc : BitVec 16
deriving DecidableEq, Repr

/-- The operand bundle (spec/30_encoding.md R81). -/
structure Operands where
  /-- A. -/
  a : Word
  /-- B. -/
  b : Word
  /-- BUFIN, with n its length. -/
  bufin : List Byte
  /-- HDR, exactly 11 bytes. -/
  hdr : Vector Byte 11
  /-- PAY, with m its length. -/
  pay : List Byte
deriving DecidableEq, Repr

/-- One request on the CMD port: the command word, its operand bundle, and the values the input ports hold while it runs
(spec/30_encoding.md R80, spec/10_state.md R45, R48; notes/assumptions/2.md). -/
structure Request where
  word : Word
  operands : Operands
  /-- VIN, PIN and ENC of the four channels. -/
  sensors : Vector Sensors Config.nch
  /-- NOW, in milliseconds. -/
  now : BitVec 64
deriving DecidableEq, Repr

/-- An event (spec/60_exceptions.md R275). -/
inductive Event where
  /-- EV_FRAME(n). -/
  | frame (n : Nat)
  /-- EV_PRESENCE(c, p). -/
  | presence (c : Fin Config.nch) (p : Bool)
  /-- EV_MOVE_DONE(c). -/
  | moveDone (c : Fin Config.nch)
deriving DecidableEq, Repr

/-- The fields PARSE_LONG answers (spec/41_packet_codec.md R170). -/
structure LongView where
  packageNumber : BitVec 16
  packageLength : BitVec 16
  crc8 : Byte
  targetAddress : BitVec 16
  sourceAddress : BitVec 16
  type : BitVec 16
  datas : List Byte
  dataLength : BitVec 16
deriving DecidableEq, Repr

/-- The channel record RD_CH answers (spec/43_motor_pid.md R250). -/
structure ChannelReport where
  motion : Motion
  pwm : BitVec 16
  led : Rgb
  tens : Tension
  pres : Bool
  latch : Bool
  dir : Bool
  lite : Bool
  v : F32
  speed : F32
  dist : F32
  dt : F32
  meters : F32
  ad : F32
  tv : F32
  td : F32
  pwmZero : F32
  color : Rgba
deriving DecidableEq, Repr

/-- The result bundle (spec/30_encoding.md R82). A field an operation does not write is absent. -/
structure Result where
  status : Status
  fstat : Option FrameStatus
  kind : Option PacketKind
  len : Option (BitVec 16)
  val : Option (BitVec 32)
  out : Option F32
  buf : Option (List Byte)
  view : Option LongView
  chan : Option ChannelReport
  events : List Event
deriving DecidableEq, Repr

/-! ## The state -/

/-- The state of the block, its ports and the requests that wait on CMD. -/
structure State where
  /-- FS (spec/10_state.md R20). -/
  fs : Phase
  /-- IDX, an integer 0..998 (R21). -/
  idx : Fin Config.frameCap
  /-- BUF (R22). -/
  buf : Memory
  /-- CRC8R (R23). -/
  crc8r : BitVec 8
  /-- SHORT (R24). -/
  short : Bool
  /-- DLEN (R25). -/
  dlen : BitVec 16
  /-- PBUF (R26). -/
  pbuf : Memory
  /-- PLEN (R26). -/
  plen : BitVec 16
  /-- PRDY (R26). -/
  prdy : Bool
  /-- OVR (R26). -/
  ovr : Bool
  /-- The channel registers of c = 0..3. -/
  chans : Vector Channel Config.nch
  /-- LITE (R38). -/
  lite : Bool
  /-- The request being executed, or last executed: the CMD port's word and bundle, and the input ports (R45). -/
  cmd : Request
  /-- The model's own field: the requests that have arrived and wait, oldest first (spec/20_memory.md R72, R73). -/
  inbox : List Request
  /-- RES, the result bundle of the last operation (R45). -/
  res : Result
deriving DecidableEq, Repr

/-! ## Reset -/

/-- A cleared controller, "Clear()" (spec/10_state.md R49). -/
def Pid.cleared : Pid :=
  { i := Config.zero, eprev := Config.zero }

/-- A channel after reset (spec/10_state.md R49). -/
def Channel.reset : Channel :=
  { motion := .stop, pids := Pid.cleared, pidp := Pid.cleared, tv := Config.zero, td := Config.zero, ad := Config.zero,
    latch := false, pwm := 0, led := ⟨0, 0, 0⟩, v := Config.vSet, tens := .normal, pres := false, tLost := 0,
    lostValid := false, encPrev := 0, encValid := false, dist := Config.zero, speed := Config.zero, dt := Config.zero,
    tPrev := 0, meters := Config.zero, dir := false, pwmZero := Config.zero, color := ⟨0, 0, 0, 0⟩ }

/-- An operand bundle of zeros and empty buffers. -/
def Operands.zeros : Operands :=
  { a := 0, b := 0, bufin := [], hdr := Vector.replicate 11 0, pay := [] }

/-- The request whose word and bundle are given, with every input port at zero (notes/assumptions/5.md). -/
def Request.ofWord (w : Word) (o : Operands) : Request :=
  { word := w, operands := o, sensors := Vector.replicate Config.nch ⟨Config.zero, false, 0⟩, now := 0 }

/-- The result bundle that holds a status and nothing else. -/
def Result.ofStatus (st : Status) : Result :=
  { status := st, fstat := none, kind := none, len := none, val := none, out := none, buf := none, view := none,
    chan := none, events := [] }

/-- The block right after reset (spec/10_state.md R49, spec/70_reset_and_hazards.md R300). BUF and PBUF list nothing
(notes/assumptions/4.md); the ports and RES are at the values of notes/assumptions/3.md and 5.md; nothing waits on CMD. -/
def State.reset : State :=
  { fs := .seeking, idx := 0, buf := [], crc8r := Config.crc8Init, short := false, dlen := 0, pbuf := [], plen := 0,
    prdy := false, ovr := false, chans := Vector.replicate Config.nch Channel.reset, lite := false,
    cmd := Request.ofWord 0 Operands.zeros, inbox := [], res := Result.ofStatus .ok }

end Sys2Proof.Machine
end

