-- ==== Sys2Proof/Machine/Ops.lean ====
section
/-! DEFINITION. The named operations over memory, channels and the result bundle, fetching a request, and the block's one
way of reporting an error. THE BLOCK HAS NO EXCEPTION AND NO RETURN FROM ONE (spec/60_exceptions.md R280, R281): `raise` is
what stands in their place, and it saves nothing, changes no mode and transfers no control. -/

namespace Sys2Proof.Machine

/-! ## Memory (spec/20_memory.md R60) -/

/-- What an offset that is not listed reads as (notes/assumptions/4.md). -/
def Memory.unlisted : Byte := 0

/-- The byte at an offset. -/
def Memory.read : Memory → Nat → Byte
  | [], _ => Memory.unlisted
  | (k, v) :: rest, a => if k = a then v else Memory.read rest a

/-- `m` with the byte `b` at offset `a`, in canonical form again. -/
def Memory.write : Memory → Nat → Byte → Memory
  | [], a, b => if b = Memory.unlisted then [] else [(a, b)]
  | (k, v) :: rest, a, b =>
    if a < k then (if b = Memory.unlisted then (k, v) :: rest else (a, b) :: (k, v) :: rest)
    else if a = k then (if b = Memory.unlisted then rest else (a, b) :: rest)
    else (k, v) :: Memory.write rest a b

/-- Canonical from offset `lo` on: offsets strictly rising from `lo`, inside the array, none at the unlisted value. -/
def Memory.wfFrom : Nat → Memory → Bool
  | _, [] => true
  | lo, (k, v) :: rest =>
    decide (lo ≤ k) && decide (k < Config.pktMax) && (v != Memory.unlisted) && Memory.wfFrom (k + 1) rest

/-- The canonical form of an array's contents. -/
def Memory.wf (m : Memory) : Bool :=
  Memory.wfFrom 0 m

/-- The bytes at offsets 0..n−1, at most the array's 1000 (R60: an offset past the array is never read;
notes/assumptions/12.md). -/
def Memory.bytes (m : Memory) (n : Nat) : List Byte :=
  (List.range (min n Config.pktMax)).map (Memory.read m)

/-- `m` with the bytes of `src` at offsets 0..n−1 copied over its own. -/
def Memory.copyFrom (m src : Memory) : Nat → Memory
  | 0 => m
  | n + 1 => Memory.write (Memory.copyFrom m src n) n (Memory.read src n)

/-! ## Channels -/

/-- The registers of channel `c`. -/
def State.chan (s : State) (c : Fin Config.nch) : Channel :=
  s.chans[c]

/-- `s` with the registers of channel `c` replaced. -/
def State.setChan (s : State) (c : Fin Config.nch) (ch : Channel) : State :=
  { s with chans := s.chans.set c ch }

/-- The output port PWM_OUT[c] (spec/10_state.md R45, spec/43_motor_pid.md R243). -/
def State.pwmOut (s : State) (c : Fin Config.nch) : BitVec 16 :=
  (s.chan c).pwm

/-- The output port LED_OUT[c] (spec/10_state.md R45, spec/43_motor_pid.md R246). -/
def State.ledOut (s : State) (c : Fin Config.nch) : Rgb :=
  (s.chan c).led

/-! ## Ending an operation -/

/-- The operation ends with the result bundle `r`: RES holds it, and nothing else changes. -/
def finish (r : Result) (s : State) : Host.Outcome State Fault Refusal :=
  .next { s with res := r }

/-- `raise E_x` (spec/00_scope.md R13, spec/60_exceptions.md R270): the status is the whole record, no state is written and
no event is emitted. -/
def raise (e : Status) (s : State) : Host.Outcome State Fault Refusal :=
  finish (Result.ofStatus e) s

/-- The channel check of a channel operation (spec/30_encoding.md R86, spec/60_exceptions.md R273): CH 4..7 raises
E_CHANNEL, and otherwise the operation goes on with its channel. -/
def withChannel (ch : BitVec 3) (s : State) (k : Fin Config.nch → Host.Outcome State Fault Refusal) :
    Host.Outcome State Fault Refusal :=
  if h : ch.toNat < Config.nch then k ⟨ch.toNat, h⟩ else raise .eChannel s

/-! ## Taking the next request (spec/20_memory.md R72) -/

/-- The status of a command word that decodes to no instruction (spec/30_encoding.md R85). -/
def rejectStatus : Reject → Status
  | .opcode => .eOpcode
  | .reserved => .eReserved
  | .length => .eLength

/-- The oldest waiting request moves onto the ports; `none` when nothing waits. -/
def fetch (s : State) : Option State :=
  match s.inbox with
  | [] => none
  | r :: rest => some { s with cmd := r, inbox := rest }

/-- What the command word on the CMD port stands for. -/
def fetched (s : State) : Except Reject Instr :=
  decode (.cmd s.cmd.word)

/-- A command word that stands for no instruction: the status, "with no state change and no result fields"
(spec/30_encoding.md R85). -/
def rejectWord (e : Reject) (s : State) : Host.Outcome State Fault Refusal :=
  raise (rejectStatus e) s

/-- The request that makes the block run what a table row's bits stand for: a command word as it is, and a wire frame as the
operand buffer of IDENTIFY (notes/assumptions/9.md). Every other operand is zero or empty. -/
def tableRequest (nbits w : Nat) : Request :=
  match tableEncoding nbits w with
  | .cmd word => Request.ofWord word Operands.zeros
  | .wire b => Request.ofWord (cmdWord 0x0A 0 false 0) { Operands.zeros with bufin := b }

end Sys2Proof.Machine
end

