-- ==== Sys2Proof/Machine/Flags.lean ====
section
/-! DEFINITION. The flag-like registers and every coded field: the tension code, the in-use latch, the framer's PRDY and OVR,
and the numeric codes of modes, statuses, frame statuses and kinds. The block has no condition codes
(spec/10_state.md R46). -/

namespace Sys2Proof.Machine

/-- `tension(v)` (spec/42_sensor_mux.md R193). -/
def tension (v : F32) : Tension :=
  if F32.lt Config.vTaut v then .taut else if F32.lt v Config.vSlack then .slack else .normal

/-- TENS as its 2-bit signed code (spec/10_state.md R34). -/
def Tension.code : Tension → BitVec 2
  | .normal => 0
  | .taut => 1
  | .slack => 3

/-- The latch after a sample of `v` (spec/43_motor_pid.md R238, R239): released below 1.55, engaged above 1.70, else held. -/
def latchAfter (latch : Bool) (v : F32) : Bool :=
  if F32.lt v Config.vRelease then false else if F32.lt Config.vBandHi v then true else latch

/-- COFF, the offset of the header CRC8 that SHORT selects (spec/10_state.md R24). -/
def coff (short : Bool) : Nat :=
  if short then 3 else 6

/-- OVR after a frame completes (spec/40_frame_decoder.md R126). -/
def ovrAfter (prdy ovr : Bool) : Bool :=
  prdy || ovr

/-- RDPKT's val (spec/40_frame_decoder.md R132): bit 0 PRDY, bit 1 OVR. -/
def stageFlags (prdy ovr : Bool) : BitVec 32 :=
  (BitVec.ofBool ovr ++ BitVec.ofBool prdy).setWidth 32

/-- FS as its 1-bit code (spec/10_state.md R20). -/
def Phase.bit : Phase → Bool
  | .seeking => false
  | .framing => true

/-- The codes of MOTION (spec/10_state.md R28). -/
def Motion.code : Motion → BitVec 3
  | .stop => 0
  | .send => 1
  | .pull => 2
  | .slowSend => 3
  | .pressureIdle => 4
  | .pressureInUse => 5
  | .velocity => 6

/-- The mode of a code; code 7 is none (spec/10_state.md R28, spec/43_motor_pid.md R228). -/
def Motion.ofCode (m : BitVec 3) : Option Motion :=
  if m = 0 then some .stop
  else if m = 1 then some .send
  else if m = 2 then some .pull
  else if m = 3 then some .slowSend
  else if m = 4 then some .pressureIdle
  else if m = 5 then some .pressureInUse
  else if m = 6 then some .velocity
  else none

/-- The codes of the statuses (spec/60_exceptions.md R270). -/
def Status.code : Status → BitVec 4
  | .ok => 0
  | .eOpcode => 1
  | .eReserved => 2
  | .eChannel => 3
  | .eLength => 4
  | .eOperand => 5

/-- The codes of the frame statuses (spec/40_frame_decoder.md R123). -/
def FrameStatus.code : FrameStatus → BitVec 2
  | .incomplete => 0
  | .ready => 1
  | .invalid => 2

/-- The codes of the packet kinds (spec/30_encoding.md R95). -/
def PacketKind.code : PacketKind → BitVec 4
  | .none => 0
  | .motionShort => 1
  | .motionLong => 2
  | .onlineDetect => 3
  | .reqX6 => 4
  | .nfcDetect => 5
  | .setFilamentInfo => 6
  | .heartbeat => 7
  | .shortOther => 8
  | .mcOnline => 9
  | .readFilamentInfo => 10
  | .setFilamentInfoV2 => 11
  | .version => 12
  | .serialNumber => 13
  | .longOther => 14
  | .unknown => 15

end Sys2Proof.Machine
end

