-- ==== Sys2Proof/Machine/Operands.lean ====
section
/-! DEFINITION. The operand forms: the fields of the bundle as an operation reads them (spec/30_encoding.md R81, R87) and the
input ports of a channel (spec/10_state.md R45). The fields of the command word are read by the decoder. -/

namespace Sys2Proof.Machine

/-- Operand A as an f32, its 32 bits reinterpreted (R87). -/
def State.opA (s : State) : F32 :=
  ⟨s.cmd.operands.a⟩

/-- Operand B as an f32, its 32 bits reinterpreted (R87). -/
def State.opB (s : State) : F32 :=
  ⟨s.cmd.operands.b⟩

/-- WR_COLOR's operand A: R in bits 7:0, G in 15:8, B in 23:16, Alpha in 31:24 (R87). -/
def colorOf (a : Word) : Rgba :=
  { r := a.extractLsb' 0 8, g := a.extractLsb' 8 8, b := a.extractLsb' 16 8, a := a.extractLsb' 24 8 }

/-- BUFIN; n is its length. -/
def State.bufin (s : State) : List Byte :=
  s.cmd.operands.bufin

/-- HDR, the 11 bytes of a long sub-header. -/
def State.hdr (s : State) : List Byte :=
  s.cmd.operands.hdr.toList

/-- PAY; m is its length. -/
def State.pay (s : State) : List Byte :=
  s.cmd.operands.pay

/-- VIN, PIN and ENC of channel `c`. -/
def State.sensors (s : State) (c : Fin Config.nch) : Sensors :=
  s.cmd.sensors[c]

/-- NOW. -/
def State.now (s : State) : BitVec 64 :=
  s.cmd.now

end Sys2Proof.Machine
end

