-- ==== Sys2Proof/Machine/Codec.lean ====
section
/-! DEFINITION. The packet codec: IDENTIFY, PARSE_LONG, BUILD_WITH_CRC, BUILD_LONG, and the 16 packet kinds
(spec/41_packet_codec.md). None of them writes block state. -/

namespace Sys2Proof.Machine

/-! ## IDENTIFY -/

/-- `short_kind(x)` (R150). -/
def shortKind (x : Byte) : PacketKind :=
  if x = Config.cmdMotionShort then .motionShort
  else if x = Config.cmdMotionLong then .motionLong
  else if x = Config.cmdOnlineDetect then .onlineDetect
  else if x = Config.cmdReqX6 then .reqX6
  else if x = Config.cmdNfcDetect then .nfcDetect
  else if x = Config.cmdSetFilamentInfo then .setFilamentInfo
  else if x = Config.cmdHeartbeat then .heartbeat
  else .shortOther

/-- `long_kind(t)` (R150). -/
def longKind (t : BitVec 16) : PacketKind :=
  if t = Config.typeMcOnline then .mcOnline
  else if t = Config.typeReadFilamentInfo then .readFilamentInfo
  else if t = Config.typeSetFilamentInfoV2 then .setFilamentInfoV2
  else if t = Config.typeVersion then .version
  else if t = Config.typeSerialNumber then .serialNumber
  else .longOther

/-- IDENTIFY's kind and val for a buffer of at most 1000 bytes (R150). -/
def classify (b : List Byte) : PacketKind × Option (BitVec 32) :=
  if !crc16Ok b then (.none, none)
  else if byteAt b 1 = Config.shortHeader then
    if b.length < 7 then (.unknown, none)
    else (shortKind (byteAt b 4), some ((byteAt b 4).setWidth 32))
  else if byteAt b 1 = Config.longHeader then
    if b.length < Config.longOverhead then (.unknown, none)
    else (longKind (rd16 b 11), some ((rd16 b 11).setWidth 32))
  else (.unknown, none)

/-- What IDENTIFY answers for a buffer of `n` bytes of the given kind and val: E_LENGTH with kind NONE past 1000 bytes, and
otherwise the kind, the length and the val (R150, R153). -/
def identified (n : Nat) (kind : PacketKind) (val : Option (BitVec 32)) (s : State) : Host.Outcome State Fault Refusal :=
  if Config.pktMax < n then finish { Result.ofStatus .eLength with kind := some .none } s
  else finish { Result.ofStatus .ok with kind := some kind, len := some (BitVec.ofNat 16 n), val := val } s

/-- IDENTIFY (R150). -/
def execIdentify (s : State) : Host.Outcome State Fault Refusal :=
  identified s.bufin.length (classify s.bufin).1 (classify s.bufin).2 s

/-! ## The packet kinds: what handing the frame to IDENTIFY answers (R153, R155..R169) -/

/-- The length of a short-family frame (spec/30_encoding.md R91). -/
def shortLength (f : ShortFrame) : Nat :=
  f.payload.length + 7

/-- The length of a long-family frame (spec/30_encoding.md R92). -/
def longLength (f : LongFrame) : Nat :=
  f.datas.length + Config.longOverhead

/-- MOTION_SHORT, code 1 (R155). -/
def execKindMotionShort (f : ShortFrame) (s : State) : Host.Outcome State Fault Refusal :=
  identified (shortLength f) .motionShort (some (Config.cmdMotionShort.setWidth 32)) s

/-- MOTION_LONG, code 2 (R156). -/
def execKindMotionLong (f : ShortFrame) (s : State) : Host.Outcome State Fault Refusal :=
  identified (shortLength f) .motionLong (some (Config.cmdMotionLong.setWidth 32)) s

/-- ONLINE_DETECT, code 3 (R157). -/
def execKindOnlineDetect (f : ShortFrame) (s : State) : Host.Outcome State Fault Refusal :=
  identified (shortLength f) .onlineDetect (some (Config.cmdOnlineDetect.setWidth 32)) s

/-- REQ_X6, code 4 (R158). -/
def execKindReqX6 (f : ShortFrame) (s : State) : Host.Outcome State Fault Refusal :=
  identified (shortLength f) .reqX6 (some (Config.cmdReqX6.setWidth 32)) s

/-- NFC_DETECT, code 5 (R159). -/
def execKindNfcDetect (f : ShortFrame) (s : State) : Host.Outcome State Fault Refusal :=
  identified (shortLength f) .nfcDetect (some (Config.cmdNfcDetect.setWidth 32)) s

/-- SET_FILAMENT_INFO, code 6 (R160). -/
def execKindSetFilamentInfo (f : ShortFrame) (s : State) : Host.Outcome State Fault Refusal :=
  identified (shortLength f) .setFilamentInfo (some (Config.cmdSetFilamentInfo.setWidth 32)) s

/-- HEARTBEAT, code 7 (R161). -/
def execKindHeartbeat (f : ShortFrame) (s : State) : Host.Outcome State Fault Refusal :=
  identified (shortLength f) .heartbeat (some (Config.cmdHeartbeat.setWidth 32)) s

/-- SHORT_OTHER, code 8 (R162): val is the command byte. -/
def execKindShortOther (cmd : Byte) (f : ShortFrame) (s : State) : Host.Outcome State Fault Refusal :=
  identified (shortLength f) .shortOther (some (cmd.setWidth 32)) s

/-- MC_ONLINE, code 9 (R163). -/
def execKindMcOnline (f : LongFrame) (s : State) : Host.Outcome State Fault Refusal :=
  identified (longLength f) .mcOnline (some (Config.typeMcOnline.setWidth 32)) s

/-- READ_FILAMENT_INFO, code 10 (R164). -/
def execKindReadFilamentInfo (f : LongFrame) (s : State) : Host.Outcome State Fault Refusal :=
  identified (longLength f) .readFilamentInfo (some (Config.typeReadFilamentInfo.setWidth 32)) s

/-- SET_FILAMENT_INFO_V2, code 11 (R165). -/
def execKindSetFilamentInfoV2 (f : LongFrame) (s : State) : Host.Outcome State Fault Refusal :=
  identified (longLength f) .setFilamentInfoV2 (some (Config.typeSetFilamentInfoV2.setWidth 32)) s

/-- VERSION, code 12 (R166). -/
def execKindVersion (f : LongFrame) (s : State) : Host.Outcome State Fault Refusal :=
  identified (longLength f) .version (some (Config.typeVersion.setWidth 32)) s

/-- SERIAL_NUMBER, code 13 (R167). -/
def execKindSerialNumber (f : LongFrame) (s : State) : Host.Outcome State Fault Refusal :=
  identified (longLength f) .serialNumber (some (Config.typeSerialNumber.setWidth 32)) s

/-- LONG_OTHER, code 14 (R168): val is the type. -/
def execKindLongOther (type : BitVec 16) (f : LongFrame) (s : State) : Host.Outcome State Fault Refusal :=
  identified (longLength f) .longOther (some (type.setWidth 32)) s

/-- NONE, code 0 (R153): "NONE carries no val". -/
def execKindNone (b : List Byte) (s : State) : Host.Outcome State Fault Refusal :=
  identified b.length .none none s

/-- UNKNOWN, code 15 (R169): no val. -/
def execKindUnknown (b : List Byte) (s : State) : Host.Outcome State Fault Refusal :=
  identified b.length .unknown none s

/-! ## PARSE_LONG -/

/-- The view of a buffer of 15..1000 bytes (R170, R171). -/
def longView (b : List Byte) : LongView :=
  { packageNumber := rd16 b 2, packageLength := rd16 b 4, crc8 := byteAt b 6, targetAddress := rd16 b 7,
    sourceAddress := rd16 b 9, type := rd16 b 11,
    datas := (b.drop Config.longHeaderLen).take (b.length - Config.longOverhead),
    dataLength := BitVec.ofNat 16 (b.length - Config.longOverhead) }

/-- PARSE_LONG (R170). -/
def execParseLong (s : State) : Host.Outcome State Fault Refusal :=
  if s.bufin.length < Config.longOverhead ∨ Config.pktMax < s.bufin.length then raise .eLength s
  else finish { Result.ofStatus .ok with view := some (longView s.bufin) } s

/-! ## The serialisers -/

/-- The offset of the header CRC8 that the header byte of `b` selects (R172). -/
def buildCoff (b : List Byte) : Nat :=
  coff (isShort (byteAt b 1))

/-- Whether BUILD_WITH_CRC refuses the buffer's length (R172): n < 2, n > 1000, or no room for the header, its CRC8 and the
CRC16. -/
def buildLengthBad (b : List Byte) : Bool :=
  decide (b.length < 2) || decide (Config.pktMax < b.length) || decide (b.length < buildCoff b + 3)

/-- `b` with the CRC8 of its header written at COFF (R172). -/
def withHeaderCrc (b : List Byte) : List Byte :=
  b.set (buildCoff b) (crc8 (b.take (buildCoff b)))

/-- `b` with the CRC16 of all but its last two bytes written over those two (R172). -/
def withTailCrc (b : List Byte) : List Byte :=
  wr16 b (b.length - Config.crcLen) (crc16 (b.take (b.length - Config.crcLen)))

/-- The buffer BUILD_WITH_CRC answers (R172): the CRC8 first, and the CRC16 over the new CRC8 (R173). -/
def built (b : List Byte) : List Byte :=
  withTailCrc (withHeaderCrc b)

/-- BUILD_WITH_CRC (R172). -/
def execBuildWithCrc (s : State) : Host.Outcome State Fault Refusal :=
  if buildLengthBad s.bufin then raise .eLength s
  else finish
    { Result.ofStatus .ok with
      buf := some (built s.bufin), len := some (BitVec.ofNat 16 s.bufin.length) } s

/-- The long packet before its CRCs (R174): preamble, sub-header with the package_length written over it, payload, and two
bytes reserved for the CRC16. -/
def longDraft (hdr pay : List Byte) : List Byte :=
  wr16 ([Config.marker, Config.longHeader] ++ hdr ++ pay ++ [0, 0]) 4 (BitVec.ofNat 16 (Config.longOverhead + pay.length))

/-- BUILD_LONG (R174). -/
def execBuildLong (s : State) : Host.Outcome State Fault Refusal :=
  if Config.payMax < s.pay.length then raise .eLength s
  else finish
    { Result.ofStatus .ok with
      buf := some (built (longDraft s.hdr s.pay)), len := some (BitVec.ofNat 16 (Config.longOverhead + s.pay.length)) } s

end Sys2Proof.Machine
end

