-- ==== Sys2Proof/Machine/Framer.lean ====
section
/-! DEFINITION. The byte-stream framer and the CRC operations: FEED, FRM_RESET, RDPKT, RDFRM, CRC8_CALC, CRC16_CALC
(spec/40_frame_decoder.md). -/

namespace Sys2Proof.Machine

/-- The declared length after the byte `b` is stored at offset `i` (spec/40_frame_decoder.md R124, spec/10_state.md R25). -/
def dlenAfter (short : Bool) (i : Nat) (dlen : BitVec 16) (b : Byte) : BitVec 16 :=
  if short && i == 2 then b.setWidth 16
  else if !short && i == 4 then b.setWidth 16
  else if !short && i == 5 then dlen ||| (b.setWidth 16 <<< 8)
  else dlen

/-- FEED's result: status OK, a frame status, and for READY the frame length and its event (R123, R126). -/
def feedResult (f : FrameStatus) (len : Option (BitVec 16)) (events : List Event) : Result :=
  { Result.ofStatus .ok with fstat := some f, len := len, events := events }

/-- `abandon()` (R124). -/
def abandon (s : State) : State :=
  { s with fs := .seeking, idx := 0 }

/-- The byte `b` in SEEKING (R125): a marker opens a frame, any other byte is discarded. -/
def seekByte (b : Byte) (s : State) : State :=
  if b = Config.marker then
    { s with buf := Memory.write s.buf 0 b, crc8r := crc8Step Config.crc8Init b, short := false, dlen := 0, idx := 1,
             fs := .framing }
  else s

/-- The byte `b` stored at offset IDX, with the variant and the declared length it settles (R124). -/
def storeByte (b : Byte) (s : State) : State :=
  let i := s.idx.val
  let short := if i = 1 then isShort b else s.short
  { s with buf := Memory.write s.buf i b, short := short, dlen := dlenAfter short i s.dlen b }

/-- The running CRC8 takes in every byte before COFF (R93, R124). -/
def foldCrc8 (b : Byte) (s : State) : State :=
  if s.idx.val < coff s.short then { s with crc8r := crc8Step s.crc8r b } else s

/-- `complete(n)` (R126), less its event. -/
def completeFrame (n : Nat) (s : State) : State :=
  { s with ovr := ovrAfter s.prdy s.ovr, pbuf := Memory.copyFrom s.pbuf s.buf n, plen := BitVec.ofNat 16 n, prdy := true,
           fs := .seeking, idx := 0 }

/-- Whether the byte `b` at the header CRC8 offset rejects the frame (R128). -/
def headerBad (b : Byte) (s : State) : Bool :=
  s.idx.val == coff s.short && (b != s.crc8r || decide (s.dlen.toNat < coff s.short + 3))

/-- The byte `b` in FRAMING (R124, R126..R128). -/
def frameByte (b : Byte) (s : State) : State × Result :=
  let s1 := foldCrc8 b (storeByte b s)
  let n := s.idx.val + 1
  if headerBad b s1 then (abandon s1, feedResult .invalid none [])
  else if coff s1.short < s.idx.val ∧ n = s1.dlen.toNat then
    (completeFrame n s1, feedResult .ready (some (BitVec.ofNat 16 n)) [.frame n])
  else if n = Config.frameCap then (abandon s1, feedResult .invalid none [])
  else ({ s1 with idx := Fin.ofNat Config.frameCap n }, feedResult .incomplete none [])

/-- FEED as a function on the state (R124). -/
def feedByte (b : Byte) (s : State) : State × Result :=
  match s.fs with
  | .seeking => (seekByte b s, feedResult .incomplete none [])
  | .framing => frameByte b s

/-- FEED (R124). -/
def execFeed (b : Byte) (s : State) : Host.Outcome State Fault Refusal :=
  finish (feedByte b s).2 (feedByte b s).1

/-- FRM_RESET (R130). -/
def execFrmReset (s : State) : Host.Outcome State Fault Refusal :=
  finish (Result.ofStatus .ok)
    { s with fs := .seeking, idx := 0, crc8r := Config.crc8Init, short := false, dlen := 0 }

/-- RDPKT (R132). -/
def execRdpkt (s : State) : Host.Outcome State Fault Refusal :=
  finish
    { Result.ofStatus .ok with
      buf := some (Memory.bytes s.pbuf s.plen.toNat), len := some s.plen, val := some (stageFlags s.prdy s.ovr) }
    { s with prdy := false, ovr := false }

/-- RDFRM's val (R133): bit 0 FS, 10:1 IDX, 18:11 CRC8R, 19 SHORT, 20 PRDY, 21 OVR, 31:22 PLEN. -/
def framerWord (s : State) : BitVec 32 :=
  s.plen.extractLsb' 0 10 ++ (BitVec.ofBool s.ovr ++ (BitVec.ofBool s.prdy ++ (BitVec.ofBool s.short ++
    (s.crc8r ++ (BitVec.ofNat 10 s.idx.val ++ BitVec.ofBool s.fs.bit)))))

/-- RDFRM (R133). -/
def execRdfrm (s : State) : Host.Outcome State Fault Refusal :=
  finish { Result.ofStatus .ok with val := some (framerWord s), len := some s.dlen } s

/-- CRC8_CALC (R134). -/
def execCrc8Calc (s : State) : Host.Outcome State Fault Refusal :=
  if Config.pktMax < s.bufin.length then raise .eLength s
  else finish { Result.ofStatus .ok with val := some ((crc8 s.bufin).setWidth 32) } s

/-- CRC16_CALC (R135). -/
def execCrc16Calc (s : State) : Host.Outcome State Fault Refusal :=
  if Config.pktMax < s.bufin.length then raise .eLength s
  else finish { Result.ofStatus .ok with val := some ((crc16 s.bufin).setWidth 32) } s

end Sys2Proof.Machine
end

