-- ==== Sys2Proof/Machine/Sensor.lean ====
section
/-! DEFINITION. The sensor multiplexer and the encoder accumulator: SAMPLE, WR_METERS, WR_COLOR (spec/42_sensor_mux.md). -/

namespace Sys2Proof.Machine

/-- `sanitize(x)` (R192). -/
def sanitize (x : F32) : F32 :=
  if x.isNaN then Config.vSet
  else if F32.lt x Config.vMin then Config.vMin
  else if F32.lt Config.vMax x then Config.vMax
  else x

/-- `wrap12(Δ)` (R196): a difference past half a revolution, 2047 or −2048, is corrected by a whole one. -/
def wrap12 (d : Int) : Int :=
  if Config.encMod / 2 ≤ d then d - Config.encMod
  else if d < -(Config.encMod / 2) then d + Config.encMod
  else d

/-- The signed encoder delta of a sample, 0 for the baseline (R190, R195). -/
def encDelta (ch : Channel) (raw : BitVec Config.encBits) : Int :=
  if ch.encValid then wrap12 ((raw.toNat : Int) - (ch.encPrev.toNat : Int)) else 0

/-- The milliseconds since the previous sample: 0 for the baseline, and 0 when NOW has gone back (R190). -/
def elapsedMs (ch : Channel) (now : BitVec 64) : Nat :=
  if ch.encValid then (if ch.tPrev.toNat ≤ now.toNat then now.toNat - ch.tPrev.toNat else 0) else 0

/-- The voltage half of SAMPLE: V and TENS (R192, R193). -/
def sampleVoltage (x : Sensors) (ch : Channel) : Channel :=
  { ch with v := sanitize x.vin, tens := tension (sanitize x.vin) }

/-- The presence half of SAMPLE: PRES, and on a 1 → 0 change T_LOST and LOST_VALID (R194). -/
def samplePresence (now : BitVec 64) (x : Sensors) (ch : Channel) : Channel :=
  if ch.pres && !x.pin then { ch with pres := false, tLost := now, lostValid := true } else { ch with pres := x.pin }

/-- The event of a presence change (R194). -/
def presenceEvents (c : Fin Config.nch) (x : Sensors) (ch : Channel) : List Event :=
  if x.pin = ch.pres then [] else [.presence c x.pin]

/-- The encoder half of SAMPLE: baseline, distance, elapsed time, speed and the meters ledger (R195..R198). -/
def sampleEncoder (p : Config.Params) (now : BitVec 64) (x : Sensors) (ch : Channel) : Channel :=
  let raw := x.enc.extractLsb' 0 Config.encBits
  let ms := elapsedMs ch now
  let mm := p.num.mul (p.num.ofInt (encDelta ch raw)) p.mmPerTick
  let dt := p.num.div (p.num.ofNat ms) Config.thousand
  { ch with
    encPrev := raw, encValid := true, tPrev := now, dist := mm, dt := dt,
    speed := if 0 < ms then p.num.div mm dt else ch.speed,
    meters := p.num.add ch.meters (p.num.div mm Config.thousand) }

/-- SAMPLE of one channel's registers (R190). -/
def sampleChannel (p : Config.Params) (now : BitVec 64) (x : Sensors) (ch : Channel) : Channel :=
  sampleEncoder p now x (samplePresence now x (sampleVoltage x ch))

/-- SAMPLE of channel `c` with the ports of the request at hand, and the events it raises (R190, R194). -/
def sampleAt (p : Config.Params) (c : Fin Config.nch) (s : State) : State × List Event :=
  (s.setChan c (sampleChannel p s.now (s.sensors c) (s.chan c)), presenceEvents c (s.sensors c) (s.chan c))

/-- SAMPLE (R190). -/
def execSample (ch : BitVec 3) (s : State) : Host.Outcome State Fault Refusal :=
  withChannel ch s fun c =>
    finish { Result.ofStatus .ok with events := (sampleAt Config.params c s).2 } (sampleAt Config.params c s).1

/-- WR_METERS (R200). -/
def execWrMeters (ch : BitVec 3) (s : State) : Host.Outcome State Fault Refusal :=
  withChannel ch s fun c =>
    finish (Result.ofStatus .ok)
      (s.setChan c { s.chan c with meters := F32.clampf s.opA Config.zero Config.metersMax })

/-- WR_COLOR (R201). -/
def execWrColor (ch : BitVec 3) (s : State) : Host.Outcome State Fault Refusal :=
  withChannel ch s fun c =>
    finish (Result.ofStatus .ok) (s.setChan c { s.chan c with color := colorOf s.cmd.operands.a })

end Sys2Proof.Machine
end

