-- ==== Sys2Proof/Machine/Motor.lean ====
section
/-! DEFINITION. The PID controllers, the output laws and the PWM: PID_CLEAR, PID_STEP, PWM_SHAPE, SET_MOTION, SET_VELOCITY,
RUN, TICK (spec/43_motor_pid.md). -/

namespace Sys2Proof.Machine

/-! ## The PID primitive -/

/-- `clampf(x, −m, m)`: the clamp to a magnitude `m` (R222, R224, R227). -/
def clampTo (m x : F32) : F32 :=
  F32.clampf x (F32.negate m) m

/-- The integral term after a step (R221, R222). -/
def pidIntegral (num : Config.Num) (g : Config.Gains) (p : Pid) (e dt : F32) : F32 :=
  clampTo Config.iLim (num.add p.i (num.mul (num.mul g.ki e) dt))

/-- The derivative term of a step, dropped when no time has passed (R221, R223). -/
def pidDerivative (num : Config.Num) (g : Config.Gains) (p : Pid) (e dt : F32) : F32 :=
  if F32.eq dt Config.zero then Config.zero else num.div (num.mul g.kd (num.sub e p.eprev)) dt

/-- The controller after `pid_step` (R221). -/
def pidAfter (num : Config.Num) (g : Config.Gains) (p : Pid) (e dt : F32) : Pid :=
  { i := pidIntegral num g p e dt, eprev := e }

/-- The output of `pid_step` (R221, R224). -/
def pidOut (num : Config.Num) (g : Config.Gains) (p : Pid) (e dt : F32) : F32 :=
  clampTo Config.outLim (num.add (num.add (num.mul g.kp e) (pidIntegral num g p e dt)) (pidDerivative num g p e dt))

/-- The controller that a selector names. -/
def Channel.pid (ch : Channel) : Sel → Pid
  | .speed => ch.pids
  | .pressure => ch.pidp

/-- `ch` with the controller that a selector names replaced. -/
def Channel.setPid (ch : Channel) (sel : Sel) (p : Pid) : Channel :=
  match sel with
  | .speed => { ch with pids := p }
  | .pressure => { ch with pidp := p }

/-- The gains that a selector names (spec/00_scope.md R10). -/
def gainsOf (p : Config.Params) : Sel → Config.Gains
  | .speed => p.speedGains
  | .pressure => p.pressureGains

/-- PID_CLEAR (R220). -/
def execPidClear (ch : BitVec 3) (sel : Sel) (s : State) : Host.Outcome State Fault Refusal :=
  withChannel ch s fun c =>
    finish (Result.ofStatus .ok) (s.setChan c ((s.chan c).setPid sel Pid.cleared))

/-- Whether PID_STEP refuses its operands (R221): a non-finite error or time, or a negative time. -/
def pidOperandsBad (e dt : F32) : Bool :=
  !e.isFinite || !dt.isFinite || F32.lt dt Config.zero

/-- PID_STEP (R221). -/
def execPidStep (ch : BitVec 3) (sel : Sel) (s : State) : Host.Outcome State Fault Refusal :=
  withChannel ch s fun c =>
    if pidOperandsBad s.opA s.opB then raise .eOperand s
    else
      let num := Config.params.num
      let g := gainsOf Config.params sel
      let p := (s.chan c).pid sel
      finish { Result.ofStatus .ok with out := some (pidOut num g p s.opA s.opB) }
        (s.setChan c ((s.chan c).setPid sel (pidAfter num g p s.opA s.opB)))

/-! ## PWM shaping -/

/-- `shape(x, pz)` (R227): the deadband, the bias in the direction of travel, the clamp, and truncation toward zero. -/
def shape (num : Config.Num) (x pz : F32) : BitVec 16 :=
  if x.isNaN then 0
  else if F32.le (F32.abs x) Config.deadband then 0
  else F32.trunc16 (clampTo Config.outLim (num.add x (num.mul (F32.sign x) pz)))

/-- PWM_SHAPE (R227): the s16 in val[15:0], zero-extended. -/
def execPwmShape (ch : BitVec 3) (s : State) : Host.Outcome State Fault Refusal :=
  withChannel ch s fun c =>
    finish { Result.ofStatus .ok with val := some ((shape Config.params.num s.opA (s.chan c).pwmZero).setWidth 32) } s

/-! ## Mode writes -/

/-- `set_mode(c, m)` (R228): a change of mode clears both controllers and the latch. -/
def setMode (m : Motion) (ch : Channel) : Channel :=
  if m = ch.motion then ch
  else { ch with pids := Pid.cleared, pidp := Pid.cleared, latch := false, motion := m }

/-- SET_MOTION (R228). -/
def execSetMotion (ch mode : BitVec 3) (s : State) : Host.Outcome State Fault Refusal :=
  withChannel ch s fun c =>
    match Motion.ofCode mode with
    | none => raise .eOperand s
    | some m => finish (Result.ofStatus .ok) (s.setChan c (setMode m (s.chan c)))

/-- SET_VELOCITY (R229). -/
def execSetVelocity (ch : BitVec 3) (s : State) : Host.Outcome State Fault Refusal :=
  withChannel ch s fun c =>
    if !s.opA.isFinite || !s.opB.isFinite then raise .eOperand s
    else finish (Result.ofStatus .ok)
      (s.setChan c (setMode .velocity { s.chan c with tv := s.opA, td := s.opB, ad := Config.zero }))

/-! ## The output laws -/

/-- `dirf(c)` (R232). -/
def dirf (dir : Bool) : F32 :=
  if dir then Config.minusOne else Config.one

/-- The channel with the pre-shaping output `x` applied to DIR and shaped into PWM (R234, R236, R238, R241). -/
def drive (num : Config.Num) (x : F32) (ch : Channel) : Channel :=
  { ch with pwm := shape num x ch.pwmZero }

/-- Stepping the selected controller with error `e` and driving the motor with `dir × pid_step(…)`. -/
def drivePid (p : Config.Params) (sel : Sel) (e : F32) (ch : Channel) : Channel :=
  drive p.num (p.num.mul (dirf ch.dir) (pidOut p.num (gainsOf p sel) (ch.pid sel) e ch.dt))
    (ch.setPid sel (pidAfter p.num (gainsOf p sel) (ch.pid sel) e ch.dt))

/-- `law_stop` (R233): PIDS cleared, PWM 0 without shaping, PIDP untouched. -/
def lawStop (ch : Channel) : Channel :=
  { ch with pids := Pid.cleared, pwm := 0 }

/-- The target speed of send (R235). -/
def sendTarget (p : Config.Params) (lite : Bool) (v : F32) : F32 :=
  if lite then (if F32.lt v p.vSendCeil then p.vSendLite else Config.zero) else p.vSend

/-- `law_speed` with its target (R234). -/
def lawSpeed (p : Config.Params) (target : F32) (ch : Channel) : Channel :=
  drivePid p .speed (p.num.sub ch.speed target) ch

/-- Whether the idle assist is active (R237). -/
def assistActive (p : Config.Params) (now : BitVec 64) (ch : Channel) : Bool :=
  ch.lostValid && decide (ch.tLost.toNat ≤ now.toNat) && decide (now.toNat - ch.tLost.toNat < p.assistMs.toNat)

/-- `law_idle` (R236). -/
def lawIdle (p : Config.Params) (now : BitVec 64) (ch : Channel) : Channel :=
  if ch.pres then drivePid p .pressure (p.num.sub ch.v Config.vSet) ch
  else if assistActive p now ch then drive p.num (p.num.mul (dirf ch.dir) p.assistPwm) ch
  else drive p.num Config.zero ch

/-- Whether the in-use law applies PID-pressure at voltage `v` with the latch as it stands after the sample (R238). -/
def inUseActive (latch : Bool) (v : F32) : Bool :=
  latch || F32.lt v Config.vSet || F32.lt Config.vBandHi v

/-- `law_in_use` (R238). -/
def lawInUse (p : Config.Params) (ch : Channel) : Channel :=
  let ch1 := { ch with latch := latchAfter ch.latch ch.v }
  if inUseActive ch1.latch ch1.v then drivePid p .pressure (p.num.sub ch1.v Config.vSet) ch1 else drive p.num Config.zero ch1

/-- AD after the travel of the last sample (R241). -/
def adAfter (num : Config.Num) (ch : Channel) : F32 :=
  num.add ch.ad (F32.abs ch.dist)

/-- Whether this RUN completes the move (R241, R242): AD ≥ TD. -/
def moveReached (num : Config.Num) (ch : Channel) : Bool :=
  F32.le ch.td (adAfter num ch)

/-- `law_velocity` (R241). -/
def lawVelocity (p : Config.Params) (ch : Channel) : Channel :=
  let ch1 := { ch with ad := adAfter p.num ch }
  if moveReached p.num ch then { setMode .stop ch1 with pwm := 0 }
  else drivePid p .speed (p.num.sub ch1.speed ch1.tv) ch1

/-- The LED law (R246). -/
def ledOf (t : Tension) (pres : Bool) (c : Rgba) : Rgb :=
  match t with
  | .taut => ⟨255, 0, 0⟩
  | .slack => ⟨0, 0, 255⟩
  | .normal => if pres then ⟨c.r, c.g, c.b⟩ else ⟨0, 0, 0⟩

/-- The output law that the channel's mode selects (R232). -/
def applyLaw (p : Config.Params) (lite : Bool) (now : BitVec 64) (ch : Channel) : Channel :=
  match ch.motion with
  | .stop => lawStop ch
  | .send => lawSpeed p (sendTarget p lite ch.v) ch
  | .slowSend => lawSpeed p p.vSlow ch
  | .pull => lawSpeed p p.vPull ch
  | .pressureIdle => lawIdle p now ch
  | .pressureInUse => lawInUse p ch
  | .velocity => lawVelocity p ch

/-- RUN of one channel's registers (R232): the law, then the LED. -/
def runChannel (p : Config.Params) (lite : Bool) (now : BitVec 64) (ch : Channel) : Channel :=
  { applyLaw p lite now ch with led := ledOf ch.tens ch.pres ch.color }

/-- The event of a completed move (R241, R242). -/
def moveEvents (num : Config.Num) (c : Fin Config.nch) (ch : Channel) : List Event :=
  if ch.motion = .velocity ∧ moveReached num ch = true then [.moveDone c] else []

/-- RUN of channel `c` with NOW of the request at hand, and the events it raises (R232). -/
def runAt (p : Config.Params) (c : Fin Config.nch) (s : State) : State × List Event :=
  (s.setChan c (runChannel p s.lite s.now (s.chan c)), moveEvents p.num c (s.chan c))

/-- RUN (R232). -/
def execRun (ch : BitVec 3) (s : State) : Host.Outcome State Fault Refusal :=
  withChannel ch s fun c =>
    finish { Result.ofStatus .ok with events := (runAt Config.params c s).2 } (runAt Config.params c s).1

/-! ## TICK -/

/-- A sub-operation on each of the listed channels in turn, with the events in that order (R248). -/
def eachOf (f : Fin Config.nch → State → State × List Event) : List (Fin Config.nch) → State → State × List Event
  | [], s => (s, [])
  | c :: rest, s =>
    let a := f c s
    let b := eachOf f rest a.1
    (b.1, a.2 ++ b.2)

/-- A sub-operation on channels 0, 1, 2, 3 in that order (R248). -/
def eachChannel (f : Fin Config.nch → State → State × List Event) (s : State) : State × List Event :=
  eachOf f (List.finRange Config.nch) s

/-- One control tick (R248): SAMPLE of all channels, then RUN of all channels, with the one NOW of the request. -/
def tickAll (p : Config.Params) (s : State) : State × List Event :=
  let a := eachChannel (sampleAt p) s
  let b := eachChannel (runAt p) a.1
  (b.1, a.2 ++ b.2)

/-- TICK (R248). -/
def execTick (s : State) : Host.Outcome State Fault Refusal :=
  finish { Result.ofStatus .ok with events := (tickAll Config.params s).2 } (tickAll Config.params s).1

end Sys2Proof.Machine
end

