-- ==== Sys2Proof/Machine/System.lean ====
section
/-! DEFINITION. NOP, the configuration writes CFG_CH and CFG_DEV, and the channel report RD_CH (spec/43_motor_pid.md R230,
R231, R249, R250). -/

namespace Sys2Proof.Machine

/-- NOP (R249). -/
def execNop (s : State) : Host.Outcome State Fault Refusal :=
  finish (Result.ofStatus .ok) s

/-- CFG_CH (R230). -/
def execCfgCh (ch : BitVec 3) (dir : Bool) (s : State) : Host.Outcome State Fault Refusal :=
  withChannel ch s fun c =>
    if !s.opA.isFinite || F32.lt s.opA Config.zero then raise .eOperand s
    else finish (Result.ofStatus .ok) (s.setChan c { s.chan c with dir := dir, pwmZero := s.opA })

/-- CFG_DEV (R231). -/
def execCfgDev (lite : Bool) (s : State) : Host.Outcome State Fault Refusal :=
  finish (Result.ofStatus .ok) { s with lite := lite }

/-- The channel record, every f32 that is not finite reported as 0.0 (R250). -/
def reportOf (lite : Bool) (ch : Channel) : ChannelReport :=
  { motion := ch.motion, pwm := ch.pwm, led := ch.led, tens := ch.tens, pres := ch.pres, latch := ch.latch, dir := ch.dir,
    lite := lite, v := F32.finiteOrZero ch.v, speed := F32.finiteOrZero ch.speed, dist := F32.finiteOrZero ch.dist,
    dt := F32.finiteOrZero ch.dt, meters := F32.finiteOrZero ch.meters, ad := F32.finiteOrZero ch.ad,
    tv := F32.finiteOrZero ch.tv, td := F32.finiteOrZero ch.td, pwmZero := F32.finiteOrZero ch.pwmZero,
    color := ch.color }

/-- RD_CH (R250). -/
def execRdCh (ch : BitVec 3) (s : State) : Host.Outcome State Fault Refusal :=
  withChannel ch s fun c => finish { Result.ofStatus .ok with chan := some (reportOf s.lite (s.chan c)) } s

end Sys2Proof.Machine
end

