-- ==== Sys2Proof/Machine/Dispatch.lean ====
section
/-! DEFINITION. Which definition gives each instruction its meaning. -/

namespace Sys2Proof.Machine

def exec (i : Instr) (s : State) : Host.Outcome State Fault Refusal :=
  match i with
  | .nop => Sys2Proof.Machine.execNop s
  | .feed b => Sys2Proof.Machine.execFeed b s
  | .frmReset => Sys2Proof.Machine.execFrmReset s
  | .rdpkt => Sys2Proof.Machine.execRdpkt s
  | .rdfrm => Sys2Proof.Machine.execRdfrm s
  | .crc8Calc => Sys2Proof.Machine.execCrc8Calc s
  | .crc16Calc => Sys2Proof.Machine.execCrc16Calc s
  | .identify => Sys2Proof.Machine.execIdentify s
  | .parseLong => Sys2Proof.Machine.execParseLong s
  | .buildWithCrc => Sys2Proof.Machine.execBuildWithCrc s
  | .buildLong => Sys2Proof.Machine.execBuildLong s
  | .sample ch => Sys2Proof.Machine.execSample ch s
  | .run ch => Sys2Proof.Machine.execRun ch s
  | .tick => Sys2Proof.Machine.execTick s
  | .pidClear ch sel => Sys2Proof.Machine.execPidClear ch sel s
  | .pidStep ch sel => Sys2Proof.Machine.execPidStep ch sel s
  | .pwmShape ch => Sys2Proof.Machine.execPwmShape ch s
  | .setMotion ch mode => Sys2Proof.Machine.execSetMotion ch mode s
  | .setVelocity ch => Sys2Proof.Machine.execSetVelocity ch s
  | .wrMeters ch => Sys2Proof.Machine.execWrMeters ch s
  | .wrColor ch => Sys2Proof.Machine.execWrColor ch s
  | .cfgCh ch dir => Sys2Proof.Machine.execCfgCh ch dir s
  | .cfgDev lite => Sys2Proof.Machine.execCfgDev lite s
  | .rdCh ch => Sys2Proof.Machine.execRdCh ch s
  | .kindMotionShort f => Sys2Proof.Machine.execKindMotionShort f s
  | .kindMotionLong f => Sys2Proof.Machine.execKindMotionLong f s
  | .kindOnlineDetect f => Sys2Proof.Machine.execKindOnlineDetect f s
  | .kindReqX6 f => Sys2Proof.Machine.execKindReqX6 f s
  | .kindNfcDetect f => Sys2Proof.Machine.execKindNfcDetect f s
  | .kindSetFilamentInfo f => Sys2Proof.Machine.execKindSetFilamentInfo f s
  | .kindHeartbeat f => Sys2Proof.Machine.execKindHeartbeat f s
  | .kindShortOther cmd f => Sys2Proof.Machine.execKindShortOther cmd f s
  | .kindMcOnline f => Sys2Proof.Machine.execKindMcOnline f s
  | .kindReadFilamentInfo f => Sys2Proof.Machine.execKindReadFilamentInfo f s
  | .kindSetFilamentInfoV2 f => Sys2Proof.Machine.execKindSetFilamentInfoV2 f s
  | .kindVersion f => Sys2Proof.Machine.execKindVersion f s
  | .kindSerialNumber f => Sys2Proof.Machine.execKindSerialNumber f s
  | .kindLongOther type f => Sys2Proof.Machine.execKindLongOther type f s
  | .kindNone frame => Sys2Proof.Machine.execKindNone frame s
  | .kindUnknown frame => Sys2Proof.Machine.execKindUnknown frame s

end Sys2Proof.Machine
end

