-- ==== Sys2Proof/Machine/Step.lean ====
section
/-! DEFINITION. One step: the oldest waiting request moves onto the ports and its command word is executed
(spec/20_memory.md R72, notes/assumptions/1.md). -/

namespace Sys2Proof.Machine

/-- One step. With nothing waiting the block does nothing; a command word that stands for no instruction answers its status
(spec/30_encoding.md R85). -/
def step (s : State) : Host.Outcome State Fault Refusal :=
  match fetch s with
  | none => .next s
  | some t =>
    match fetched t with
    | .ok i => exec i t
    | .error e => rejectWord e t

/-- `s` with the request for a table row's bits as the next one on CMD. -/
def State.withFetchWord (s : State) (nbits w : Nat) : State :=
  { s with inbox := tableRequest nbits w :: s.inbox }

end Sys2Proof.Machine
end

