-- ==== Sys2Proof/Machine/Table.lean ====
section
/-! DEFINITION. The command-word rows of spec/opcode_table.json as data: each row's match and mask, copied from the table. The
decoder does not read them; statements compare the decoder with them. -/

namespace Sys2Proof.Machine

/-- One row: a word `w` is the row's operation exactly when `w &&& mask = bits`. -/
structure TableRow where
  bits : Word
  mask : Word
deriving DecidableEq, Repr

/-- Whether a word is the row's operation. -/
def TableRow.admits (r : TableRow) (w : Word) : Bool :=
  w &&& r.mask == r.bits

/-- The 24 command rows, in the table's order. -/
def commandRows : List TableRow :=
  [ ⟨0x00000000, 0xFFFFFFFF⟩, ⟨0x00000001, 0xFF00FFFF⟩, ⟨0x00000002, 0xFFFFFFFF⟩, ⟨0x00000003, 0xFFFFFFFF⟩,
    ⟨0x00000004, 0xFFFFFFFF⟩, ⟨0x00000008, 0xFFFFFFFF⟩, ⟨0x00000009, 0xFFFFFFFF⟩, ⟨0x0000000A, 0xFFFFFFFF⟩,
    ⟨0x0000000B, 0xFFFFFFFF⟩, ⟨0x0000000C, 0xFFFFFFFF⟩, ⟨0x0000000D, 0xFFFFFFFF⟩, ⟨0x00000010, 0xFFFFF8FF⟩,
    ⟨0x00000011, 0xFFFFF8FF⟩, ⟨0x00000012, 0xFFFFFFFF⟩, ⟨0x00000013, 0xFFFFF0FF⟩, ⟨0x00000014, 0xFFFFF0FF⟩,
    ⟨0x00000015, 0xFFFFF8FF⟩, ⟨0x00000016, 0xFFF8F8FF⟩, ⟨0x00000017, 0xFFFFF8FF⟩, ⟨0x00000018, 0xFFFFF8FF⟩,
    ⟨0x00000019, 0xFFFFF8FF⟩, ⟨0x0000001A, 0xFFFEF8FF⟩, ⟨0x0000001B, 0xFFFEFFFF⟩, ⟨0x0000001C, 0xFFFFF8FF⟩ ]

end Sys2Proof.Machine
end

