-- ==== Sys2Proof/Safety.lean ====
section
/-! DEFINITION. What counts as a safe run: no step stops (spec/60_exceptions.md R274), and every state keeps what
spec/10_state.md says of the registers. Also the host's duties as predicates on a stream of requests
(spec/60_exceptions.md R287, spec/70_reset_and_hazards.md); the block enforces none of them. -/

namespace Sys2Proof.Machine

/-- The step answers a next state. -/
def Goes (s : State) : Prop :=
  ∃ t, step s = .next t

/-! ## Invariants of the registers -/

/-- `lo ≤ x ≤ hi` as f32 values; false for a NaN. -/
def Within (lo hi x : F32) : Prop :=
  F32.le lo x = true ∧ F32.le x hi = true

/-- What spec/10_state.md says of one channel's registers in every state: the integral terms lie in [−1000, 1000] (R29), PWM
in [−1000, 1000] (R32), V in [0.0, 3.3] with TENS its classification (R34), PWM_ZERO is finite and ≥ 0 (R37), and the targets
of a move are finite (spec/43_motor_pid.md R229). -/
structure ChannelInv (ch : Channel) : Prop where
  speedIntegral : Within (F32.negate Config.iLim) Config.iLim ch.pids.i
  pressureIntegral : Within (F32.negate Config.iLim) Config.iLim ch.pidp.i
  pwmLow : -1000 ≤ ch.pwm.toInt
  pwmHigh : ch.pwm.toInt ≤ 1000
  voltage : Within Config.vMin Config.vMax ch.v
  tensionOfVoltage : ch.tens = tension ch.v
  pwmZeroFinite : ch.pwmZero.isFinite = true
  pwmZeroNonneg : F32.le Config.zero ch.pwmZero = true
  targetSpeedFinite : ch.tv.isFinite = true
  targetDistanceFinite : ch.td.isFinite = true

/-- Every channel's registers are as `ChannelInv` says. -/
def ChannelsInv (s : State) : Prop :=
  ∀ c : Fin Config.nch, ChannelInv (s.chan c)

/-- Both byte arrays are in canonical form. -/
def MemoryInv (s : State) : Prop :=
  Memory.wf s.buf = true ∧ Memory.wf s.pbuf = true

/-- The declared length that the stored bytes of the in-flight frame give (spec/10_state.md R25): the bytes of the length
field that lie below IDX, 0 before the first. -/
def declaredSoFar (buf : Memory) (short : Bool) (idx : Nat) : BitVec 16 :=
  if short then (if 2 < idx then (buf.read 2).setWidth 16 else 0)
  else if 5 < idx then field16 (buf.read 4) (buf.read 5)
  else if 4 < idx then (buf.read 4).setWidth 16
  else 0

/-- What spec/10_state.md says of an in-flight frame: it begins with the marker, SHORT is bit 7 of its header byte (R24),
DLEN is what its length bytes give (R25), CRC8R is the CRC8 of its first min(IDX, COFF) bytes (R23), and once the header
has been accepted its CRC8 byte is CRC8R and its end lies ahead, at least COFF + 3 bytes from its start
(spec/40_frame_decoder.md R126, R128). -/
structure InFlight (s : State) : Prop where
  marker : s.buf.read 0 = Config.marker
  variantBefore : s.idx.val = 1 → s.short = false
  variant : 1 < s.idx.val → s.short = (s.buf.read 1).msb
  length : s.dlen = declaredSoFar s.buf s.short s.idx.val
  headerCrc : s.crc8r = crc8 (s.buf.bytes (min s.idx.val (coff s.short)))
  accepted : coff s.short < s.idx.val →
    s.buf.read (coff s.short) = s.crc8r ∧ coff s.short + 3 ≤ s.dlen.toNat ∧ s.idx.val < s.dlen.toNat

/-- The framer's invariant: FS = SEEKING ⇔ IDX = 0 (spec/10_state.md R27), and an in-flight frame is as `InFlight` says. -/
structure FramerInv (s : State) : Prop where
  phase : s.fs = .seeking ↔ s.idx.val = 0
  inFlight : s.fs = .framing → InFlight s

/-- A buffer that FEED delivers (spec/41_packet_codec.md R151): the marker, a passed header CRC8, a length field equal to
its length, at most 999 bytes. -/
def Delivered (b : List Byte) : Prop :=
  byteAt b 0 = Config.marker ∧ buildCoff b + 3 ≤ b.length ∧ b.length ≤ Config.frameCap ∧
    byteAt b (buildCoff b) = crc8 (b.take (buildCoff b)) ∧
    (if (byteAt b 1).msb then (byteAt b 2).toNat = b.length else (rd16 b 4).toNat = b.length)

/-- The received-packet stage (spec/10_state.md R26): PLEN is 0 while no frame has completed, and otherwise PBUF holds a
delivered frame of that length; PRDY and OVR are never set without one, and OVR never without PRDY. -/
structure StageInv (s : State) : Prop where
  fits : s.plen.toNat ≤ Config.frameCap
  staged : s.plen ≠ 0 → Delivered (s.pbuf.bytes s.plen.toNat)
  ready : s.prdy = true → s.plen ≠ 0
  overrun : s.ovr = true → s.prdy = true

/-- Everything above. -/
structure Inv (s : State) : Prop where
  memory : MemoryInv s
  framer : FramerInv s
  stage : StageInv s
  channels : ChannelsInv s

/-- A run of `k` steps that never stops and keeps the invariant. -/
def SafeRun : Nat → State → Prop
  | 0, s => Inv s
  | k + 1, s => Inv s ∧ ∃ t, step s = .next t ∧ SafeRun k t

/-! ## What an operation leaves alone -/

/-- Every byte of an array reads as before. -/
def SameBytes (m m' : Memory) : Prop :=
  ∀ a, Memory.read m' a = Memory.read m a

/-- Every byte of an array but the one at offset `i` reads as before. -/
def SameBytesBut (i : Nat) (m m' : Memory) : Prop :=
  ∀ a, a ≠ i → Memory.read m' a = Memory.read m a

/-- The received-packet stage is as before (spec/10_state.md R26). -/
structure SameStage (s t : State) : Prop where
  plen : t.plen = s.plen
  prdy : t.prdy = s.prdy
  ovr : t.ovr = s.ovr
  pbuf : SameBytes s.pbuf t.pbuf

/-- The framer is as before (spec/10_state.md R20..R25). -/
structure SameFramer (s t : State) : Prop where
  fs : t.fs = s.fs
  idx : t.idx = s.idx
  crc8r : t.crc8r = s.crc8r
  short : t.short = s.short
  dlen : t.dlen = s.dlen
  buf : SameBytes s.buf t.buf

/-- The channels, LITE and the ports other than RES are as before: what an operation of the framer leaves alone. -/
structure SameOutsideFramer (s t : State) : Prop where
  chans : ∀ c : Fin Config.nch, t.chan c = s.chan c
  lite : t.lite = s.lite
  cmd : t.cmd = s.cmd
  inbox : t.inbox = s.inbox

/-- Everything but channel `c` and RES is as before: what an operation of channel `c` leaves alone (spec/10_state.md R50,
spec/42_sensor_mux.md R191). -/
structure SameOutsideChannel (c : Fin Config.nch) (s t : State) : Prop where
  framer : SameFramer s t
  stage : SameStage s t
  chans : ∀ d : Fin Config.nch, d ≠ c → t.chan d = s.chan d
  lite : t.lite = s.lite
  cmd : t.cmd = s.cmd
  inbox : t.inbox = s.inbox

/-! ## Feeding several bytes -/

/-- The state after FEED of each byte in turn, RES holding the last one's result; `none` if a FEED stops. -/
def feeds : List Byte → State → Option State
  | [], s => some s
  | b :: rest, s =>
    match exec (.feed b) s with
    | .next t => feeds rest t
    | .fault _ => none
    | .refused _ => none

/-! ## The host's duties -/

/-- NOW never decreases (spec/70_reset_and_hazards.md R312). -/
def nowMonotone : List Request → Bool
  | [] => true
  | r :: rest =>
    (match rest with
      | [] => true
      | q :: _ => decide (r.now.toNat ≤ q.now.toNat)) && nowMonotone rest

/-- Each RUN of channel `c` follows exactly one SAMPLE of it since its previous RUN (R321); `k` counts the SAMPLEs since
then. A TICK does one of each. -/
def oneSamplePerRun (c : Fin Config.nch) : Nat → List Request → Bool
  | _, [] => true
  | k, r :: rest =>
    match decodeCmd r.word with
    | .ok (.sample ch) => oneSamplePerRun c (if ch.toNat = c.val then k + 1 else k) rest
    | .ok (.run ch) => if ch.toNat = c.val then k == 1 && oneSamplePerRun c 0 rest else oneSamplePerRun c k rest
    | .ok .tick => k == 0 && oneSamplePerRun c 0 rest
    | _ => oneSamplePerRun c k rest

/-- The boot step (spec/70_reset_and_hazards.md R305) that an operation belongs to. -/
def bootStep : Instr → Option Nat
  | .cfgDev _ => some 1
  | .cfgCh _ _ => some 2
  | .wrMeters _ => some 3
  | .wrColor _ => some 3
  | .setMotion _ _ => some 4
  | .tick => some 5
  | _ => none

/-- The boot operations up to and including the first TICK, or all of them when there is no TICK (R305;
notes/assumptions/18.md). -/
def bootPrefix : List Request → List Instr
  | [] => []
  | r :: rest =>
    match decodeCmd r.word with
    | .ok .tick => [.tick]
    | .ok i => if bootStep i = none then bootPrefix rest else i :: bootPrefix rest
    | .error _ => bootPrefix rest

/-- The steps 1..5 are performed in order (R305), each one any number of times. DESIGN CHOICE (notes/assumptions/18.md): within
a step any order counts, of the channels c = 0..3 in steps 2, 3 and 4 and of WR_METERS and WR_COLOR in step 3. R305 orders the
steps, and does not say whether "for c = 0..3" orders the writes of one. -/
def bootOrdered : List Instr → Bool
  | [] => true
  | i :: rest =>
    (match rest with
      | [] => true
      | j :: _ => decide ((bootStep i).getD 0 ≤ (bootStep j).getD 0)) && bootOrdered rest

/-- The operations hold one of every boot write of R305: the identity, and every channel configured, loaded and given a mode.
DESIGN CHOICE (notes/assumptions/18.md): a write counts when its operation is there, whatever status it answers, so a CFG_CH that
the block refuses with E_OPERAND and a SET_MOTION of code 7 count as well. R305 does not say whether they do. -/
def bootComplete (is : List Instr) : Bool :=
  is.any (fun i => bootStep i == some 1) &&
    (List.range Config.nch).all fun c =>
      is.any (fun i => match i with | .cfgCh d _ => d.toNat == c | _ => false) &&
      is.any (fun i => match i with | .wrMeters d => d.toNat == c | _ => false) &&
      is.any (fun i => match i with | .wrColor d => d.toNat == c | _ => false) &&
      is.any (fun i => match i with | .setMotion d _ => d.toNat == c | _ => false)

/-- The stream of requests performs the boot writes of R305 in order, before its first TICK. DESIGN CHOICE
(notes/assumptions/18.md): a stream with no TICK in it, whose boot has not come to step 5, counts too when its writes are all
there and in order; refused writes count (`bootComplete`); a step may be repeated; the writes of one step
may stand in any order (`bootOrdered`); and the operations of no step may stand anywhere. R305 says the last of FEED alone, and
leaves the others open. -/
def bootDone (rs : List Request) : Bool :=
  bootOrdered (bootPrefix rs) && bootComplete (bootPrefix rs)

end Sys2Proof.Machine
end

