-- ==== Sys2Proof/Certificates/Slice0/Obligations.lean ====
section
/-! DEFINITION. The statements for the provers. `Result.ofStatus .ok` is the result bundle with status OK and every other field
absent; `c` is a channel and `ch` the CH field that names it. The operators of `F32` are NUM at its default, binary32; where a
statement is over `p.num`, it is the arithmetic NUM of the parameters `p` (notes/assumptions/8.md). -/

open Sys2Proof Sys2Proof.Machine

/-! ## Encoding -/

/-- Decoding the encoding of a well-formed instruction gives it back, for every instruction of both vocabularies. -/
def Obligations.DecodeOfEncode : Prop :=
  ∀ i : Instr, WellFormed i = true → decode (encode i) = .ok i

/-- Every command word and every frame has at most one meaning, and the encoder writes that very word or frame: no bit of an
encoding is dropped. -/
def Obligations.EncodeOfDecode : Prop :=
  ∀ (e : Encoding) (i : Instr), decode e = .ok i → encode i = e ∧ WellFormed i = true

/-- A command word decodes exactly when some row of the opcode table admits it, and it is rejected for its opcode exactly when
no row has its low byte. -/
def Obligations.CommandWordsMatchTheTable : Prop :=
  ∀ w : Word,
    ((∃ i, decodeCmd w = .ok i) ↔ ∃ r ∈ commandRows, r.admits w = true) ∧
    (decodeCmd w = .error .opcode ↔ ∀ r ∈ commandRows, r.bits.extractLsb' 0 8 ≠ w.extractLsb' 0 8)

/-- Words and frames the spec writes out decode to the instruction they stand for (the examples of R100 and of
95_test_vectors.md). -/
def Obligations.SpecWordsDecode : Prop :=
  decode (.cmd 0x00000000) = .ok .nop ∧
  decode (.cmd 0x003D0001) = .ok (.feed 0x3D) ∧
  decode (.cmd 0x00010216) = .ok (.setMotion 2 1) ∧
  decode (.cmd 0x0001011A) = .ok (.cfgCh 1 true) ∧
  decode (.cmd 0x00000813) = .ok (.pidClear 0 .pressure) ∧
  decode (.cmd 0x0001001B) = .ok (.cfgDev true) ∧
  decode (.cmd 0x0000071C) = .ok (.rdCh 7) ∧
  decode (.wire [0x3D, 0xC5, 0x08, 0x2C, 0x20, 0x00, 0x32, 0xA7]) = .ok (.kindHeartbeat ⟨0x3D, 0x08, 0x2C, [0x00]⟩) ∧
  decode (.wire [0x3D, 0x05, 0x01, 0x00, 0x0F, 0x00, 0xCE, 0x00, 0x07, 0x00, 0x12, 0x03, 0x01, 0x42, 0xDF]) =
    .ok (.kindVersion ⟨0x3D, 1, 15, 0xCE, 0x0700, 0x1200, []⟩)

/-! ## Steps, errors -/

/-- A step takes the oldest waiting request onto the ports and runs the instruction its command word decodes to. That a step
with nothing waiting changes nothing is the model's choice (notes/assumptions/1.md). -/
def Obligations.StepTakesTheNextRequest : Prop :=
  (∀ (s : State) (r : Request) (rest : List Request) (i : Instr),
    s.inbox = r :: rest → decodeCmd r.word = .ok i → step s = exec i { s with cmd := r, inbox := rest }) ∧
  (∀ s : State, s.inbox = [] → step s = .next s)

/-- R85: an unknown OPC answers E_OPCODE; a known OPC whose word has a nonzero fixed-zero field, so that no row of the table
admits it, answers E_RESERVED; either changes no state beyond taking the request, and writes no result field. -/
def Obligations.IllegalWordsAnswerTheirStatus : Prop :=
  ∀ (s : State) (r : Request) (rest : List Request), s.inbox = r :: rest →
    let k := (r.word.extractLsb' 0 8).toNat
    let unknown := (5 ≤ k ∧ k ≤ 7) ∨ (14 ≤ k ∧ k ≤ 15) ∨ 29 ≤ k
    (unknown →
      step s = .next { s with cmd := r, inbox := rest, res := Result.ofStatus .eOpcode }) ∧
    (¬ unknown → (∀ x ∈ commandRows, x.admits r.word = false) →
      step s = .next { s with cmd := r, inbox := rest, res := Result.ofStatus .eReserved })

/-- R274: every operation and every step completes with a next state, in every state. -/
def Obligations.NothingEverStops : Prop :=
  (∀ (i : Instr) (s : State), ∃ t, exec i s = .next t) ∧ ∀ s : State, ∃ t, step s = .next t

/-- R270: an operation with a nonzero status writes no state and emits no events: only RES changes. -/
def Obligations.ErrorsWriteNothing : Prop :=
  ∀ (i : Instr) (s t : State), exec i s = .next t → t.res.status ≠ .ok →
    t = { s with res := t.res } ∧ t.res.events = []

/-- R86: CH in 4..7 gives every channel operation E_CHANNEL and changes nothing else, whatever its other operands. -/
def Obligations.ChannelOutOfRange : Prop :=
  ∀ (s : State) (ch mode : BitVec 3) (sel : Sel) (dir : Bool), 4 ≤ ch.toNat →
    ∀ i ∈ [Instr.sample ch, .run ch, .pidClear ch sel, .pidStep ch sel, .pwmShape ch, .setMotion ch mode, .setVelocity ch,
        .wrMeters ch, .wrColor ch, .cfgCh ch dir, .rdCh ch],
      exec i s = .next { s with res := Result.ofStatus .eChannel }

/-- The illegal operand values of R270, for a channel in range: each answers E_OPERAND and changes nothing else. -/
def Obligations.IllegalOperands : Prop :=
  ∀ (s : State) (ch : BitVec 3) (sel : Sel) (dir : Bool), ch.toNat < 4 →
    exec (.setMotion ch 7) s = .next { s with res := Result.ofStatus .eOperand } ∧
    (s.opA.isFinite = false ∨ s.opB.isFinite = false ∨ F32.lt s.opB Config.zero = true →
      exec (.pidStep ch sel) s = .next { s with res := Result.ofStatus .eOperand }) ∧
    (s.opA.isFinite = false ∨ s.opB.isFinite = false →
      exec (.setVelocity ch) s = .next { s with res := Result.ofStatus .eOperand }) ∧
    (s.opA.isFinite = false ∨ F32.lt s.opA Config.zero = true →
      exec (.cfgCh ch dir) s = .next { s with res := Result.ofStatus .eOperand })

/-! ## Invariants -/

/-- Every step keeps BUF and PBUF in canonical form. -/
def Obligations.StepKeepsMemoryCanonical : Prop :=
  ∀ s t : State, MemoryInv s → step s = .next t → MemoryInv t

/-- R27: FS = SEEKING ⇔ IDX = 0, kept by every operation, FEED and FRM_RESET among them. -/
def Obligations.SeekingIffIndexZeroKept : Prop :=
  ∀ (i : Instr) (s t : State), (s.fs = .seeking ↔ s.idx.val = 0) → exec i s = .next t →
    (t.fs = .seeking ↔ t.idx.val = 0)

/-- Every step keeps what R23, R24, R25, R27 and R128 say of an in-flight frame. -/
def Obligations.StepKeepsFramerInvariant : Prop :=
  ∀ s t : State, MemoryInv s → FramerInv s → step s = .next t → FramerInv t

/-- Every step keeps the received-packet stage a delivered frame (R26, R151): marker, passed header CRC8, length field equal
to PLEN, at most 999 bytes; OVR only with PRDY, PRDY only with a frame. -/
def Obligations.StepKeepsStagedFrameValid : Prop :=
  ∀ s t : State, MemoryInv s → FramerInv s → StageInv s → step s = .next t → StageInv t

/-- Every step keeps every channel's registers in the ranges spec/10_state.md gives them (R29, R32, R34, R37), whatever the
open parameters are. -/
def Obligations.StepKeepsChannelRanges : Prop :=
  ∀ s t : State, ChannelsInv s → step s = .next t → ChannelsInv t

/-- The state after reset meets the invariants. -/
def Obligations.ResetMeetsInvariants : Prop :=
  Inv State.reset

/-- R301: right after reset PWM_OUT[c] = 0 and LED_OUT[c] = (0, 0, 0) for every c. -/
def Obligations.ResetOutputsOff : Prop :=
  ∀ c : Fin Config.nch, State.reset.pwmOut c = 0 ∧ State.reset.ledOut c = ⟨0, 0, 0⟩

/-- From a state that meets the invariants, every run of every length goes on and meets them at every step: no sequence of
requests stops the block or breaks a register's range. -/
def Obligations.EveryRunIsSafe : Prop :=
  ∀ (k : Nat) (s : State), Inv s → SafeRun k s

/-! ## CRCs and the codec -/

/-- R177: changing any one byte of a buffer whose CRC16 passes, a CRC16 byte included, makes the check fail. -/
def Obligations.SingleByteChangeFailsCrc16 : Prop :=
  ∀ (b : List Byte) (i : Nat) (x : Byte), crc16Ok b = true → i < b.length → x ≠ byteAt b i → crc16Ok (b.set i x) = false

/-- R176: every buffer that BUILD_WITH_CRC or BUILD_LONG answers passes both checks, and IDENTIFY of it never answers NONE. -/
def Obligations.BuiltBuffersPassBothChecks : Prop :=
  ∀ (s t : State) (r : List Byte), (exec .buildWithCrc s = .next t ∨ exec .buildLong s = .next t) → t.res.buf = some r →
    crc8 (r.take (buildCoff r)) = byteAt r (buildCoff r) ∧ crc16Ok r = true ∧
    ∀ u : State, u.bufin = r → ∃ v k, exec .identify u = .next v ∧ v.res.kind = some k ∧ k ≠ .none

/-- BUILD_WITH_CRC (R172, R173). With COFF 3 or 6 by bit 7 of byte 1, a buffer of 2..1000 bytes with room for COFF + 3 gives
a buffer of the same length that differs from it at COFF and in the last two bytes at most, holding there the CRC8 of the
bytes before COFF and the CRC16 of the new buffer; building that again gives it back. Any other length gives E_LENGTH. -/
def Obligations.BuildWithCrcResult : Prop :=
  ∀ s : State,
    let b := s.bufin
    let n := b.length
    let coff := if (byteAt b 1).msb then 3 else 6
    (2 ≤ n → n ≤ 1000 → coff + 3 ≤ n →
      ∃ r : List Byte,
        exec .buildWithCrc s =
          .next { s with res := { Result.ofStatus .ok with buf := some r, len := some (BitVec.ofNat 16 n) } } ∧
        r.length = n ∧
        (∀ j, j < n → j ≠ coff → j ≠ n - 2 → j ≠ n - 1 → byteAt r j = byteAt b j) ∧
        byteAt r coff = crc8 (b.take coff) ∧
        rd16 r (n - 2) = crc16 (r.take (n - 2)) ∧
        ∀ u : State, u.bufin = r →
          exec .buildWithCrc u =
            .next { u with res := { Result.ofStatus .ok with buf := some r, len := some (BitVec.ofNat 16 n) } }) ∧
    (n < 2 ∨ 1000 < n ∨ n < coff + 3 → exec .buildWithCrc s = .next { s with res := Result.ofStatus .eLength })

/-- BUILD_LONG (R174, R175). A payload of at most 984 bytes gives the long packet byte by byte: preamble, sub-header with
package_length and crc8 written over HDR[2..4], payload, CRC16. A longer payload gives E_LENGTH. -/
def Obligations.BuildLongResult : Prop :=
  ∀ s : State,
    let m := s.pay.length
    (m ≤ 984 →
      ∃ r : List Byte,
        exec .buildLong s =
          .next { s with res := { Result.ofStatus .ok with buf := some r, len := some (BitVec.ofNat 16 (15 + m)) } } ∧
        r.length = 15 + m ∧
        byteAt r 0 = 0x3D ∧ byteAt r 1 = 0x05 ∧
        byteAt r 2 = byteAt s.hdr 0 ∧ byteAt r 3 = byteAt s.hdr 1 ∧
        (rd16 r 4).toNat = 15 + m ∧
        byteAt r 6 = crc8 (r.take 6) ∧
        (∀ j, 5 ≤ j → j < 11 → byteAt r (2 + j) = byteAt s.hdr j) ∧
        (∀ j, j < m → byteAt r (13 + j) = byteAt s.pay j) ∧
        rd16 r (13 + m) = crc16 (r.take (13 + m))) ∧
    (984 < m → exec .buildLong s = .next { s with res := Result.ofStatus .eLength })

/-- PARSE_LONG of a packet that BUILD_LONG answered gives back the sub-header's fields and the payload, with the length
fields of R174. -/
def Obligations.ParseLongOfBuildLong : Prop :=
  ∀ (s t u : State) (r : List Byte), exec .buildLong s = .next t → t.res.buf = some r → u.bufin = r →
    ∃ v w, exec .parseLong u = .next v ∧ v.res.view = some w ∧
      w.packageNumber = rd16 s.hdr 0 ∧ w.packageLength.toNat = 15 + s.pay.length ∧ w.targetAddress = rd16 s.hdr 5 ∧
      w.sourceAddress = rd16 s.hdr 7 ∧ w.type = rd16 s.hdr 9 ∧ w.datas = s.pay ∧ w.dataLength.toNat = s.pay.length

/-- R136: a buffer that BUILD_WITH_CRC or BUILD_LONG answered, beginning with the marker, with a length field equal to its
length n ≤ 999, frames back: fed from SEEKING, its first n − 1 bytes answer INCOMPLETE and the last one READY with len n, and
PBUF[0..n−1] is the buffer. -/
def Obligations.BuiltFramesFrameBack : Prop :=
  ∀ (s t u : State) (r : List Byte), (exec .buildWithCrc s = .next t ∨ exec .buildLong s = .next t) → t.res.buf = some r →
    byteAt r 0 = 0x3D → r.length ≤ 999 →
    (if (byteAt r 1).msb then (byteAt r 2).toNat = r.length else (rd16 r 4).toNat = r.length) →
    MemoryInv u → u.fs = .seeking →
      (∀ k, k + 1 < r.length → ∃ v, feeds (r.take (k + 1)) u = some v ∧ v.res.fstat = some .incomplete) ∧
      ∃ v, feeds r u = some v ∧ v.res.fstat = some .ready ∧ v.res.len = some (BitVec.ofNat 16 r.length) ∧
        v.pbuf.bytes r.length = r

/-- PARSE_LONG (R170, R171): the little-endian fields at their offsets, the data between the sub-header and the CRC16, and its
length from n; no check of the header or of either CRC. Outside 15..1000 bytes E_LENGTH. -/
def Obligations.ParseLongView : Prop :=
  ∀ s : State,
    let b := s.bufin
    let n := b.length
    (15 ≤ n → n ≤ 1000 →
      ∃ w : LongView,
        exec .parseLong s = .next { s with res := { Result.ofStatus .ok with view := some w } } ∧
        w.packageNumber.toNat = (byteAt b 2).toNat + 256 * (byteAt b 3).toNat ∧
        w.packageLength.toNat = (byteAt b 4).toNat + 256 * (byteAt b 5).toNat ∧
        w.crc8 = byteAt b 6 ∧
        w.targetAddress.toNat = (byteAt b 7).toNat + 256 * (byteAt b 8).toNat ∧
        w.sourceAddress.toNat = (byteAt b 9).toNat + 256 * (byteAt b 10).toNat ∧
        w.type.toNat = (byteAt b 11).toNat + 256 * (byteAt b 12).toNat ∧
        w.datas.length = n - 15 ∧ (∀ j, j < n - 15 → byteAt w.datas j = byteAt b (13 + j)) ∧
        w.dataLength.toNat = n - 15) ∧
    (n < 15 ∨ 1000 < n → exec .parseLong s = .next { s with res := Result.ofStatus .eLength })

/-- R155..R162: a buffer of 7..1000 bytes whose CRC16 passes and whose header is 0xC5 gets the kind, code and val that its
command byte selects, and SHORT_OTHER for every other command byte. -/
def Obligations.IdentifyShortFamily : Prop :=
  ∀ s : State,
    let b := s.bufin
    let answers := fun (k : PacketKind) (val : BitVec 32) =>
      exec .identify s =
        .next { s with res := { Result.ofStatus .ok with
          kind := some k, len := some (BitVec.ofNat 16 b.length), val := some val } }
    let table : List (Byte × PacketKind × BitVec 4) :=
      [(0x03, .motionShort, 1), (0x04, .motionLong, 2), (0x05, .onlineDetect, 3), (0x06, .reqX6, 4), (0x07, .nfcDetect, 5),
        (0x08, .setFilamentInfo, 6), (0x20, .heartbeat, 7)]
    7 ≤ b.length → b.length ≤ 1000 → crc16Ok b = true → byteAt b 1 = 0xC5 →
      (∀ p ∈ table, byteAt b 4 = p.1 → answers p.2.1 (p.1.setWidth 32) ∧ p.2.1.code = p.2.2) ∧
      ((∀ p ∈ table, byteAt b 4 ≠ p.1) →
        answers .shortOther ((byteAt b 4).setWidth 32) ∧ PacketKind.shortOther.code = 8)

/-- R163..R168: a buffer of 15..1000 bytes whose CRC16 passes and whose header is 0x05 gets the kind, code and val that its
little-endian type at offset 11 selects, and LONG_OTHER for every other type. -/
def Obligations.IdentifyLongFamily : Prop :=
  ∀ s : State,
    let b := s.bufin
    let answers := fun (k : PacketKind) (val : BitVec 32) =>
      exec .identify s =
        .next { s with res := { Result.ofStatus .ok with
          kind := some k, len := some (BitVec.ofNat 16 b.length), val := some val } }
    let table : List (BitVec 16 × PacketKind × BitVec 4) :=
      [(0x021A, .mcOnline, 9), (0x0211, .readFilamentInfo, 10), (0x0218, .setFilamentInfoV2, 11), (0x0103, .version, 12),
        (0x0402, .serialNumber, 13)]
    15 ≤ b.length → b.length ≤ 1000 → crc16Ok b = true → byteAt b 1 = 0x05 →
      (∀ p ∈ table, rd16 b 11 = p.1 → answers p.2.1 (p.1.setWidth 32) ∧ p.2.1.code = p.2.2) ∧
      ((∀ p ∈ table, rd16 b 11 ≠ p.1) →
        answers .longOther ((rd16 b 11).setWidth 32) ∧ PacketKind.longOther.code = 14)

/-- R153, R169: NONE, with the length and no val, when the CRC16 does not pass, fewer than two bytes included; NONE with
E_LENGTH past 1000 bytes; UNKNOWN, with the length and no val, when the CRC16 passes and no discriminator can be read. -/
def Obligations.IdentifyNoneAndUnknown : Prop :=
  ∀ s : State,
    let b := s.bufin
    let n := b.length
    (n < 2 → crc16Ok b = false) ∧
    (n ≤ 1000 → crc16Ok b = false →
      exec .identify s =
        .next { s with res := { Result.ofStatus .ok with kind := some .none, len := some (BitVec.ofNat 16 n) } }) ∧
    (1000 < n → exec .identify s = .next { s with res := { Result.ofStatus .eLength with kind := some .none } }) ∧
    (n ≤ 1000 → crc16Ok b = true →
      ((byteAt b 1 ≠ 0xC5 ∧ byteAt b 1 ≠ 0x05) ∨ (byteAt b 1 = 0xC5 ∧ n < 7) ∨ (byteAt b 1 = 0x05 ∧ n < 15)) →
      exec .identify s =
        .next { s with res := { Result.ofStatus .ok with kind := some .unknown, len := some (BitVec.ofNat 16 n) } }) ∧
    PacketKind.none.code = 0 ∧ PacketKind.unknown.code = 15

/-- IDENTIFY of a buffer does what the packet kind that the buffer decodes to does: the two vocabularies of R3 agree. -/
def Obligations.IdentifyRunsTheDecodedKind : Prop :=
  ∀ (s : State) (i : Instr), decode (.wire s.bufin) = .ok i → exec .identify s = exec i s

/-- The 16 packet kinds complete: a kind that fits a buffer answers its kind, its length and its val (R153, R155..R169), and
changes nothing else. -/
def Obligations.PacketKindsComplete : Prop :=
  ∀ (s : State) (f : ShortFrame) (g : LongFrame) (cmd : Byte) (type : BitVec 16) (b : List Byte),
    let answers := fun (i : Instr) (n : Nat) (k : PacketKind) (val : Option (BitVec 32)) =>
      exec i s =
        .next { s with res := { Result.ofStatus .ok with kind := some k, len := some (BitVec.ofNat 16 n), val := val } }
    let n := f.payload.length + 7
    let m := g.datas.length + 15
    (n ≤ 1000 →
      answers (.kindMotionShort f) n .motionShort (some 0x03) ∧ answers (.kindMotionLong f) n .motionLong (some 0x04) ∧
      answers (.kindOnlineDetect f) n .onlineDetect (some 0x05) ∧ answers (.kindReqX6 f) n .reqX6 (some 0x06) ∧
      answers (.kindNfcDetect f) n .nfcDetect (some 0x07) ∧
      answers (.kindSetFilamentInfo f) n .setFilamentInfo (some 0x08) ∧
      answers (.kindHeartbeat f) n .heartbeat (some 0x20) ∧
      answers (.kindShortOther cmd f) n .shortOther (some (cmd.setWidth 32))) ∧
    (m ≤ 1000 →
      answers (.kindMcOnline g) m .mcOnline (some 0x021A) ∧
      answers (.kindReadFilamentInfo g) m .readFilamentInfo (some 0x0211) ∧
      answers (.kindSetFilamentInfoV2 g) m .setFilamentInfoV2 (some 0x0218) ∧
      answers (.kindVersion g) m .version (some 0x0103) ∧ answers (.kindSerialNumber g) m .serialNumber (some 0x0402) ∧
      answers (.kindLongOther type g) m .longOther (some (type.setWidth 32))) ∧
    (b.length ≤ 1000 →
      answers (.kindNone b) b.length .none none ∧ answers (.kindUnknown b) b.length .unknown none)

/-- CRC8_CALC and CRC16_CALC (R134, R135): the fold of the step over every byte from the initial value, zero-extended; past
1000 bytes E_LENGTH. -/
def Obligations.CrcCalculations : Prop :=
  ∀ s : State,
    (s.bufin.length ≤ 1000 →
      exec .crc8Calc s =
        .next { s with res := { Result.ofStatus .ok with val := some ((s.bufin.foldl crc8Step 0x66).setWidth 32) } } ∧
      exec .crc16Calc s =
        .next { s with res := { Result.ofStatus .ok with val := some ((s.bufin.foldl crc16Step 0x913D).setWidth 32) } }) ∧
    (1000 < s.bufin.length →
      exec .crc8Calc s = .next { s with res := Result.ofStatus .eLength } ∧
      exec .crc16Calc s = .next { s with res := Result.ofStatus .eLength })

/-! ## The framer -/

/-- R125: in SEEKING a byte other than 0x3D is discarded with no state change but the result; 0x3D is stored at offset 0,
the running CRC8 is seeded with it, and framing begins; in FRAMING a 0x3D byte does not restart framing. -/
def Obligations.FeedWhileSeeking : Prop :=
  (∀ (s : State) (b : Byte), s.fs = .seeking → b ≠ 0x3D →
    exec (.feed b) s = .next { s with res := { Result.ofStatus .ok with fstat := some .incomplete } }) ∧
  (∀ s : State, MemoryInv s → s.fs = .seeking →
    ∃ t, exec (.feed 0x3D) s = .next t ∧ t.fs = .framing ∧ t.idx.val = 1 ∧ t.crc8r = crc8 [0x3D] ∧ t.short = false ∧
      t.dlen = 0 ∧ t.buf.read 0 = 0x3D ∧ SameBytesBut 0 s.buf t.buf ∧ SameStage s t ∧ SameOutsideFramer s t ∧
      t.res = { Result.ofStatus .ok with fstat := some .incomplete }) ∧
  (∀ s t : State, s.fs = .framing → exec (.feed 0x3D) s = .next t → t.fs = .framing → t.idx.val = s.idx.val + 1)

/-- A byte stored before the header CRC8 offset (R124, R93): INCOMPLETE, IDX moves on, the byte is folded into CRC8R, the
header byte's bit 7 gives SHORT, and the length bytes give DLEN, low byte first in a long frame. -/
def Obligations.FeedStoresHeaderBytes : Prop :=
  ∀ (s : State) (b : Byte), MemoryInv s → s.fs = .framing →
    let i := s.idx.val
    let short := if i = 1 then b.msb else s.short
    i < (if short then 3 else 6) →
      ∃ t, exec (.feed b) s = .next t ∧ t.fs = .framing ∧ t.idx.val = i + 1 ∧ t.short = short ∧
        t.crc8r = crc8Step s.crc8r b ∧
        (short = true → i = 2 → t.dlen.toNat = b.toNat) ∧
        (short = false → i = 4 → t.dlen.toNat = b.toNat) ∧
        (short = false → i = 5 → s.dlen.toNat < 256 → t.dlen.toNat = s.dlen.toNat + 256 * b.toNat) ∧
        ((short = true ∧ i ≠ 2) ∨ (short = false ∧ i ≠ 4 ∧ i ≠ 5) → t.dlen = s.dlen) ∧
        t.buf.read i = b ∧ SameBytesBut i s.buf t.buf ∧ SameStage s t ∧ SameOutsideFramer s t ∧
        t.res = { Result.ofStatus .ok with fstat := some .incomplete }

/-- R128: at the header CRC8 offset the frame is abandoned, with INVALID and no event, if the byte differs from the running
CRC8 or the declared length is shorter than COFF + 3; otherwise framing goes on. -/
def Obligations.FeedAtHeaderCrc : Prop :=
  ∀ (s : State) (b : Byte), MemoryInv s → s.fs = .framing → s.idx.val = coff s.short →
    ∃ t, exec (.feed b) s = .next t ∧ t.buf.read s.idx.val = b ∧ SameBytesBut s.idx.val s.buf t.buf ∧
      t.crc8r = s.crc8r ∧ t.short = s.short ∧ t.dlen = s.dlen ∧ SameStage s t ∧ SameOutsideFramer s t ∧
      (b ≠ s.crc8r ∨ s.dlen.toNat < coff s.short + 3 →
        t.fs = .seeking ∧ t.idx.val = 0 ∧ t.res = { Result.ofStatus .ok with fstat := some .invalid }) ∧
      (b = s.crc8r → coff s.short + 3 ≤ s.dlen.toNat →
        t.fs = .framing ∧ t.idx.val = s.idx.val + 1 ∧
          t.res = { Result.ofStatus .ok with fstat := some .incomplete })

/-- R126: the byte at offset DLEN − 1, past the header CRC8, completes the frame: READY with its length, EV_FRAME, the frame
copied to PBUF, PLEN its length, PRDY set, OVR set if PRDY already was, and the framer back in SEEKING. -/
def Obligations.FeedCompletesTheFrame : Prop :=
  ∀ (s : State) (b : Byte), MemoryInv s → s.fs = .framing → coff s.short < s.idx.val → s.idx.val + 1 = s.dlen.toNat →
    ∃ t, exec (.feed b) s = .next t ∧ t.fs = .seeking ∧ t.idx.val = 0 ∧
      t.plen.toNat = s.idx.val + 1 ∧ t.prdy = true ∧ (s.prdy = true → t.ovr = true) ∧ (s.prdy = false → t.ovr = s.ovr) ∧
      (∀ a, a < s.idx.val → t.pbuf.read a = s.buf.read a) ∧ t.pbuf.read s.idx.val = b ∧
      (∀ a, s.idx.val < a → t.pbuf.read a = s.pbuf.read a) ∧
      t.buf.read s.idx.val = b ∧ SameBytesBut s.idx.val s.buf t.buf ∧
      t.crc8r = s.crc8r ∧ t.short = s.short ∧ t.dlen = s.dlen ∧ SameOutsideFramer s t ∧
      t.res = { Result.ofStatus .ok with
        fstat := some .ready, len := some (BitVec.ofNat 16 (s.idx.val + 1)), events := [.frame (s.idx.val + 1)] }

/-- R127 and R124: past the header CRC8, a byte that does not complete the frame is stored and answers INCOMPLETE, except the
999th byte, which abandons the frame and answers INVALID. -/
def Obligations.FeedGoesOnUntilTheCap : Prop :=
  ∀ (s : State) (b : Byte), MemoryInv s → s.fs = .framing → coff s.short < s.idx.val → s.idx.val + 1 ≠ s.dlen.toNat →
    ∃ t, exec (.feed b) s = .next t ∧ t.buf.read s.idx.val = b ∧ SameBytesBut s.idx.val s.buf t.buf ∧
      t.crc8r = s.crc8r ∧ t.short = s.short ∧ t.dlen = s.dlen ∧ SameStage s t ∧ SameOutsideFramer s t ∧
      (s.idx.val + 1 = 999 →
        t.fs = .seeking ∧ t.idx.val = 0 ∧ t.res = { Result.ofStatus .ok with fstat := some .invalid }) ∧
      (s.idx.val + 1 ≠ 999 →
        t.fs = .framing ∧ t.idx.val = s.idx.val + 1 ∧
          t.res = { Result.ofStatus .ok with fstat := some .incomplete })

/-- NOP (R249) leaves all state unchanged, and FRM_RESET (R130) puts the in-flight fields at their reset values and leaves
everything else, the stage included. -/
def Obligations.NopAndFrmReset : Prop :=
  ∀ s : State,
    exec .nop s = .next { s with res := Result.ofStatus .ok } ∧
    exec .frmReset s =
      .next { s with fs := .seeking, idx := 0, crc8r := 0x66, short := false, dlen := 0, res := Result.ofStatus .ok }

/-- RDPKT (R132): the PLEN bytes of PBUF, PLEN, and PRDY and OVR in bits 0 and 1 of val as they were; it clears both and
changes nothing else. (PLEN never passes 999: StepKeepsStagedFrameValid.) -/
def Obligations.RdpktHandsOverTheFrame : Prop :=
  ∀ s : State, s.plen.toNat ≤ 1000 →
    ∃ (r : List Byte) (v : BitVec 32),
      exec .rdpkt s =
        .next { s with
          prdy := false, ovr := false,
          res := { Result.ofStatus .ok with buf := some r, len := some s.plen, val := some v } } ∧
      r.length = s.plen.toNat ∧ (∀ j, j < s.plen.toNat → byteAt r j = s.pbuf.read j) ∧
      v.getLsbD 0 = s.prdy ∧ v.getLsbD 1 = s.ovr ∧ v.toNat < 4

/-- RDFRM (R133): each register in its bits of val, DLEN in len, and no state change. -/
def Obligations.RdfrmPacksTheRegisters : Prop :=
  ∀ s : State,
    ∃ v : BitVec 32,
      exec .rdfrm s = .next { s with res := { Result.ofStatus .ok with val := some v, len := some s.dlen } } ∧
      (v.getLsbD 0 = true ↔ s.fs = .framing) ∧
      (v.extractLsb' 1 10).toNat = s.idx.val ∧ v.extractLsb' 11 8 = s.crc8r ∧ v.getLsbD 19 = s.short ∧
      v.getLsbD 20 = s.prdy ∧ v.getLsbD 21 = s.ovr ∧ v.extractLsb' 22 10 = s.plen.extractLsb' 0 10

/-! ## Sensors -/

/-- SAMPLE's voltage and presence halves: R192 (sanitise), R193 (tension, exclusive bounds), R194 (presence, its event, and
the time of a loss). -/
def Obligations.SampleVoltageAndPresence : Prop :=
  ∀ (s : State) (ch : BitVec 3) (c : Fin Config.nch), ch.toNat = c.val →
    ∃ t, exec (.sample ch) s = .next t ∧
      let x := s.sensors c
      let old := s.chan c
      let new := t.chan c
      (x.vin.isNaN = true → new.v = Config.vSet) ∧
      (F32.lt x.vin Config.zero = true → new.v = Config.zero) ∧
      (F32.lt Config.vMax x.vin = true → new.v = Config.vMax) ∧
      (F32.le Config.zero x.vin = true → F32.le x.vin Config.vMax = true → new.v = x.vin) ∧
      (F32.lt Config.vTaut new.v = true → new.tens = .taut) ∧
      (F32.lt new.v Config.vSlack = true → new.tens = .slack) ∧
      (F32.lt Config.vTaut new.v = false → F32.lt new.v Config.vSlack = false → new.tens = .normal) ∧
      new.pres = x.pin ∧
      (old.pres = true → x.pin = false → new.tLost = s.now ∧ new.lostValid = true) ∧
      (old.pres = false ∨ x.pin = true → new.tLost = old.tLost ∧ new.lostValid = old.lostValid) ∧
      (x.pin ≠ old.pres → t.res = { Result.ofStatus .ok with events := [.presence c x.pin] }) ∧
      (x.pin = old.pres → t.res = Result.ofStatus .ok)

/-- SAMPLE's encoder half (R195..R198) and its frame (R191, R199 item 7). The delta d is the 12-bit difference brought into
−2048..2047, and the elapsed time is 0 for the baseline and when NOW has gone back; the channel's other registers and
everything outside the channel are unchanged. -/
def Obligations.SampleEncoderAndFrame : Prop :=
  ∀ (s : State) (ch : BitVec 3) (c : Fin Config.nch), ch.toNat = c.val →
    ∃ (t : State) (d : Int) (ms : Nat), exec (.sample ch) s = .next t ∧
      let x := s.sensors c
      let old := s.chan c
      let new := t.chan c
      (old.encValid = false → d = 0 ∧ ms = 0) ∧
      (old.encValid = true →
        -2048 ≤ d ∧ d ≤ 2047 ∧ (4096 : Int) ∣ d - ((x.enc.toNat % 4096 : Nat) - (old.encPrev.toNat : Int)) ∧
          (old.tPrev.toNat ≤ s.now.toNat → ms = s.now.toNat - old.tPrev.toNat) ∧
          (s.now.toNat < old.tPrev.toNat → ms = 0)) ∧
      new.encPrev.toNat = x.enc.toNat % 4096 ∧ new.encValid = true ∧ new.tPrev = s.now ∧
      new.dist = F32.mul (F32.ofInt d) Config.params.mmPerTick ∧
      new.dt = F32.div (F32.ofNat ms) Config.thousand ∧
      (0 < ms → new.speed = F32.div new.dist new.dt) ∧ (ms = 0 → new.speed = old.speed) ∧
      new.meters = F32.add old.meters (F32.div new.dist Config.thousand) ∧
      new.motion = old.motion ∧ new.pids = old.pids ∧ new.pidp = old.pidp ∧ new.tv = old.tv ∧ new.td = old.td ∧
      new.ad = old.ad ∧ new.latch = old.latch ∧ new.pwm = old.pwm ∧ new.led = old.led ∧ new.dir = old.dir ∧
      new.pwmZero = old.pwmZero ∧ new.color = old.color ∧
      SameOutsideChannel c s t

/-- WR_METERS (R200): the operand clamped to [0.0, 3000.0], a NaN stored as 0.0, into METERS[c] and nowhere else.
WR_COLOR (R201): the four bytes of A, R lowest, into COLOR[c] and nowhere else. -/
def Obligations.WrMetersAndWrColor : Prop :=
  ∀ (s : State) (ch : BitVec 3) (c : Fin Config.nch), ch.toNat = c.val →
    (∃ m : F32,
      exec (.wrMeters ch) s =
        .next { s.setChan c { s.chan c with meters := m } with res := Result.ofStatus .ok } ∧
      (s.opA.isNaN = true → m = Config.zero) ∧ (F32.lt s.opA Config.zero = true → m = Config.zero) ∧
      (F32.lt Config.metersMax s.opA = true → m = Config.metersMax) ∧
      (F32.le Config.zero s.opA = true → F32.le s.opA Config.metersMax = true → m = s.opA)) ∧
    ∃ col : Rgba,
      exec (.wrColor ch) s =
        .next { s.setChan c { s.chan c with color := col } with res := Result.ofStatus .ok } ∧
      col.r.toNat = s.cmd.operands.a.toNat % 256 ∧ col.g.toNat = s.cmd.operands.a.toNat / 256 % 256 ∧
      col.b.toNat = s.cmd.operands.a.toNat / 65536 % 256 ∧ col.a.toNat = s.cmd.operands.a.toNat / 16777216

/-! ## PID, PWM, modes -/

/-- PID_CLEAR (R220): the selected controller of channel c at (0.0, 0.0), and nothing else. -/
def Obligations.PidClearClearsOne : Prop :=
  ∀ (s : State) (ch : BitVec 3) (c : Fin Config.nch), ch.toNat = c.val →
    exec (.pidClear ch .speed) s =
      .next { s.setChan c { s.chan c with pids := ⟨Config.zero, Config.zero⟩ } with res := Result.ofStatus .ok } ∧
    exec (.pidClear ch .pressure) s =
      .next { s.setChan c { s.chan c with pidp := ⟨Config.zero, Config.zero⟩ } with res := Result.ofStatus .ok }

/-- PID_STEP (R221, R223) with finite operands and dt ≥ 0: the integral, the derivative (dropped when dt = 0.0) and the
output of the rule, EPREV the error, for either controller with its own gains, and nothing else. -/
def Obligations.PidStepResult : Prop :=
  ∀ (s : State) (ch : BitVec 3) (c : Fin Config.nch), ch.toNat = c.val →
    let e := s.opA
    let dt := s.opB
    let integral := fun (g : Config.Gains) (p : Pid) =>
      F32.clampf (F32.add p.i (F32.mul (F32.mul g.ki e) dt)) (F32.negate Config.iLim) Config.iLim
    let out := fun (g : Config.Gains) (p : Pid) (d : F32) =>
      F32.clampf (F32.add (F32.add (F32.mul g.kp e) (integral g p)) d) (F32.negate Config.outLim) Config.outLim
    let deriv := fun (g : Config.Gains) (p : Pid) =>
      if F32.eq dt Config.zero then Config.zero else F32.div (F32.mul g.kd (F32.sub e p.eprev)) dt
    let gs := Config.params.speedGains
    let gp := Config.params.pressureGains
    let ps := (s.chan c).pids
    let pp := (s.chan c).pidp
    e.isFinite = true → dt.isFinite = true → F32.le Config.zero dt = true →
      exec (.pidStep ch .speed) s =
        .next { s.setChan c { s.chan c with pids := ⟨integral gs ps, e⟩ } with
          res := { Result.ofStatus .ok with out := some (out gs ps (deriv gs ps)) } } ∧
      exec (.pidStep ch .pressure) s =
        .next { s.setChan c { s.chan c with pidp := ⟨integral gp pp, e⟩ } with
          res := { Result.ofStatus .ok with out := some (out gp pp (deriv gp pp)) } }

/-- R224 and the clamp of R222: for every arithmetic NUM, gain, controller state, error and time, infinities and NaNs included,
the output of a step and the stored integral term lie in [−1000, 1000]. -/
def Obligations.PidStepIsClamped : Prop :=
  ∀ (num : Config.Num) (g : Config.Gains) (p : Pid) (e dt : F32),
    Within (F32.negate Config.outLim) Config.outLim (pidOut num g p e dt) ∧
      Within (F32.negate Config.iLim) Config.iLim (pidAfter num g p e dt).i

/-- PWM_SHAPE (R227): a NaN and |x| ≤ 10 give 0; otherwise x biased by pwm_zero in its direction, clamped to ±1000 and rounded
toward zero (F32.value counts in units of 2^-149). The result is an s16 in [−1000, 1000], zero-extended; no state is
written. -/
def Obligations.PwmShapeResult : Prop :=
  ∀ (s : State) (ch : BitVec 3) (c : Fin Config.nch), ch.toNat = c.val →
    let x := s.opA
    let y := F32.clampf (F32.add x (F32.mul (F32.sign x) (s.chan c).pwmZero)) (F32.negate Config.outLim) Config.outLim
    ∃ w : BitVec 16,
      exec (.pwmShape ch) s = .next { s with res := { Result.ofStatus .ok with val := some (w.setWidth 32) } } ∧
      -1000 ≤ w.toInt ∧ w.toInt ≤ 1000 ∧
      (x.isNaN = true → w = 0) ∧
      (F32.le (F32.abs x) Config.deadband = true → w = 0) ∧
      (x.isNaN = false → F32.le (F32.abs x) Config.deadband = false →
        w.toInt.natAbs * 2 ^ 149 ≤ y.value.natAbs ∧ y.value.natAbs < (w.toInt.natAbs + 1) * 2 ^ 149 ∧
          (0 < w.toInt → 0 < y.value) ∧ (w.toInt < 0 → y.value < 0))

/-- SET_MOTION (R228) for each of the seven modes by its code: writing another mode than the channel's clears both controllers
and the latch and sets the mode; writing the same mode changes nothing. -/
def Obligations.SetMotionResult : Prop :=
  ∀ (s : State) (ch : BitVec 3) (c : Fin Config.nch), ch.toNat = c.val →
    ∀ p ∈ [((0 : BitVec 3), Motion.stop), (1, .send), (2, .pull), (3, .slowSend), (4, .pressureIdle), (5, .pressureInUse),
        (6, .velocity)],
      ((s.chan c).motion ≠ p.2 →
        exec (.setMotion ch p.1) s =
          .next { s.setChan c { s.chan c with
              motion := p.2, pids := ⟨Config.zero, Config.zero⟩, pidp := ⟨Config.zero, Config.zero⟩, latch := false } with
            res := Result.ofStatus .ok }) ∧
      ((s.chan c).motion = p.2 → exec (.setMotion ch p.1) s = .next { s with res := Result.ofStatus .ok })

/-- SET_VELOCITY (R229) with finite operands: TV, TD and AD are written, and the mode becomes velocity_control, clearing both
controllers and the latch when it was another. -/
def Obligations.SetVelocityResult : Prop :=
  ∀ (s : State) (ch : BitVec 3) (c : Fin Config.nch), ch.toNat = c.val → s.opA.isFinite = true → s.opB.isFinite = true →
    ((s.chan c).motion ≠ .velocity →
      exec (.setVelocity ch) s =
        .next { s.setChan c { s.chan c with
            tv := s.opA, td := s.opB, ad := Config.zero, motion := .velocity, pids := ⟨Config.zero, Config.zero⟩,
            pidp := ⟨Config.zero, Config.zero⟩, latch := false } with
          res := Result.ofStatus .ok }) ∧
    ((s.chan c).motion = .velocity →
      exec (.setVelocity ch) s =
        .next { s.setChan c { s.chan c with tv := s.opA, td := s.opB, ad := Config.zero } with
          res := Result.ofStatus .ok })

/-- CFG_CH (R230) with a finite, non-negative pwm_zero, and CFG_DEV (R231): the configuration registers they name, and nothing
else. -/
def Obligations.ConfigurationWrites : Prop :=
  (∀ (s : State) (ch : BitVec 3) (c : Fin Config.nch) (dir : Bool), ch.toNat = c.val → s.opA.isFinite = true →
    F32.le Config.zero s.opA = true →
      exec (.cfgCh ch dir) s =
        .next { s.setChan c { s.chan c with dir := dir, pwmZero := s.opA } with res := Result.ofStatus .ok }) ∧
  ∀ (s : State) (lite : Bool), exec (.cfgDev lite) s = .next { s with lite := lite, res := Result.ofStatus .ok }

/-! ## RUN and TICK -/

/-- R233: RUN in stop clears PIDS and forces PWM to 0 without shaping; PIDP is untouched, and only the LED changes besides. -/
def Obligations.RunInStop : Prop :=
  ∀ (s : State) (ch : BitVec 3) (c : Fin Config.nch), ch.toNat = c.val → (s.chan c).motion = .stop →
    ∃ led : Rgb,
      exec (.run ch) s =
        .next { s.setChan c { s.chan c with pids := ⟨Config.zero, Config.zero⟩, pwm := 0, led := led } with
          res := Result.ofStatus .ok }

/-- R234, R235: RUN in send, slow_send and pull steps the speed controller with SPEED − target and drives the shaped
dir × output; the target is the mode's constant, and for send under the lite identity V_SEND_LITE below the ceiling and 0.0
at or above it. -/
def Obligations.RunSpeedLaws : Prop :=
  ∀ (s : State) (ch : BitVec 3) (c : Fin Config.nch), ch.toNat = c.val →
    let k := s.chan c
    let p := Config.params
    let dir := if k.dir then Config.minusOne else Config.one
    let follows := fun (target : F32) =>
      let e := p.num.sub k.speed target
      ∃ led : Rgb,
        exec (.run ch) s =
          .next { s.setChan c { k with
              pids := pidAfter p.num p.speedGains k.pids e k.dt,
              pwm := shape p.num (p.num.mul dir (pidOut p.num p.speedGains k.pids e k.dt)) k.pwmZero, led := led } with
            res := Result.ofStatus .ok }
    (k.motion = .send →
      follows (if s.lite then (if F32.lt k.v p.vSendCeil then p.vSendLite else Config.zero) else p.vSend)) ∧
    (k.motion = .slowSend → follows p.vSlow) ∧ (k.motion = .pull → follows p.vPull)

/-- R236, R237: RUN in pressure_ctrl_idle steps the pressure controller with V − 1.65 while filament is present; without
filament it leaves the controller alone and drives dir × ASSIST_PWM within ASSIST_MS of the loss, and 0 otherwise. -/
def Obligations.RunInPressureIdle : Prop :=
  ∀ (s : State) (ch : BitVec 3) (c : Fin Config.nch), ch.toNat = c.val → (s.chan c).motion = .pressureIdle →
    let k := s.chan c
    let p := Config.params
    let dir := if k.dir then Config.minusOne else Config.one
    let e := p.num.sub k.v Config.vSet
    let assist := k.lostValid && decide (k.tLost.toNat ≤ s.now.toNat) &&
      decide (s.now.toNat - k.tLost.toNat < p.assistMs.toNat)
    ∃ led : Rgb,
      (k.pres = true →
        exec (.run ch) s =
          .next { s.setChan c { k with
              pidp := pidAfter p.num p.pressureGains k.pidp e k.dt,
              pwm := shape p.num (p.num.mul dir (pidOut p.num p.pressureGains k.pidp e k.dt)) k.pwmZero, led := led } with
            res := Result.ofStatus .ok }) ∧
      (k.pres = false →
        exec (.run ch) s =
          .next { s.setChan c { k with
              pwm := if assist then shape p.num (p.num.mul dir p.assistPwm) k.pwmZero else 0, led := led } with
            res := Result.ofStatus .ok })

/-- R238, R239: RUN in pressure_ctrl_in_use releases the latch below 1.55 V and engages it above 1.70 V, steps the pressure
controller with V − 1.65 when V lies outside [1.65, 1.70] or the latch is then engaged, and otherwise drives 0 and leaves the
controller alone. -/
def Obligations.RunInPressureInUse : Prop :=
  ∀ (s : State) (ch : BitVec 3) (c : Fin Config.nch), ch.toNat = c.val → (s.chan c).motion = .pressureInUse →
    let k := s.chan c
    let p := Config.params
    let dir := if k.dir then Config.minusOne else Config.one
    let e := p.num.sub k.v Config.vSet
    let outside := F32.lt k.v Config.vSet = true ∨ F32.lt Config.vBandHi k.v = true
    ∃ (led : Rgb) (latch : Bool),
      (F32.lt k.v Config.vRelease = true → latch = false) ∧
      (F32.lt k.v Config.vRelease = false → F32.lt Config.vBandHi k.v = true → latch = true) ∧
      (F32.lt k.v Config.vRelease = false → F32.lt Config.vBandHi k.v = false → latch = k.latch) ∧
      (outside ∨ latch = true →
        exec (.run ch) s =
          .next { s.setChan c { k with
              latch := latch, pidp := pidAfter p.num p.pressureGains k.pidp e k.dt,
              pwm := shape p.num (p.num.mul dir (pidOut p.num p.pressureGains k.pidp e k.dt)) k.pwmZero, led := led } with
            res := Result.ofStatus .ok }) ∧
      (¬ (outside ∨ latch = true) →
        exec (.run ch) s =
          .next { s.setChan c { k with latch := latch, pwm := 0, led := led } with res := Result.ofStatus .ok })

/-- R241, R242: RUN in velocity_control adds the absolute travel of the last sample to AD; at AD ≥ TD it stops, clears both
controllers and the latch, forces PWM to 0 and emits EV_MOVE_DONE; before that it steps the speed controller with
SPEED − TV. -/
def Obligations.RunInVelocity : Prop :=
  ∀ (s : State) (ch : BitVec 3) (c : Fin Config.nch), ch.toNat = c.val → (s.chan c).motion = .velocity →
    let k := s.chan c
    let p := Config.params
    let dir := if k.dir then Config.minusOne else Config.one
    let e := p.num.sub k.speed k.tv
    let ad := p.num.add k.ad (F32.abs k.dist)
    ∃ led : Rgb,
      (F32.le k.td ad = true →
        exec (.run ch) s =
          .next { s.setChan c { k with
              ad := ad, motion := .stop, pids := ⟨Config.zero, Config.zero⟩, pidp := ⟨Config.zero, Config.zero⟩,
              latch := false, pwm := 0, led := led } with
            res := { Result.ofStatus .ok with events := [.moveDone c] } }) ∧
      (F32.le k.td ad = false →
        exec (.run ch) s =
          .next { s.setChan c { k with
              ad := ad, pids := pidAfter p.num p.speedGains k.pids e k.dt,
              pwm := shape p.num (p.num.mul dir (pidOut p.num p.speedGains k.pids e k.dt)) k.pwmZero, led := led } with
            res := Result.ofStatus .ok })

/-- R246 in every mode, and RUN's frame (R50): the LED is red when taut, blue when slack, the stored colour when normal with
filament, off when normal without; the sensor and configuration registers, the move's targets, the meters and everything
outside the channel are unchanged. -/
def Obligations.RunLedAndFrame : Prop :=
  ∀ (s : State) (ch : BitVec 3) (c : Fin Config.nch), ch.toNat = c.val →
    ∃ t, exec (.run ch) s = .next t ∧
      let old := s.chan c
      let new := t.chan c
      (old.tens = .taut → new.led = ⟨255, 0, 0⟩) ∧
      (old.tens = .slack → new.led = ⟨0, 0, 255⟩) ∧
      (old.tens = .normal → old.pres = true → new.led = ⟨old.color.r, old.color.g, old.color.b⟩) ∧
      (old.tens = .normal → old.pres = false → new.led = ⟨0, 0, 0⟩) ∧
      new.tv = old.tv ∧ new.td = old.td ∧ new.v = old.v ∧ new.tens = old.tens ∧ new.pres = old.pres ∧
      new.tLost = old.tLost ∧ new.lostValid = old.lostValid ∧ new.encPrev = old.encPrev ∧ new.encValid = old.encValid ∧
      new.dist = old.dist ∧ new.speed = old.speed ∧ new.dt = old.dt ∧ new.tPrev = old.tPrev ∧ new.meters = old.meters ∧
      new.dir = old.dir ∧ new.pwmZero = old.pwmZero ∧ new.color = old.color ∧
      SameOutsideChannel c s t

/-- TICK (R248, R276): it completes, and the channels end as SAMPLE of channels 0, 1, 2, 3 and then RUN of channels 0, 1, 2, 3
leave them, each operation run after the one before it with the ports of the one request; its events are theirs in that
order; and everything but the channels and RES is unchanged. -/
def Obligations.TickIsFourSamplesThenFourRuns : Prop :=
  ∀ s : State, ∃ a b c d e f g h t : State,
    exec (.sample 0) s = .next a ∧ exec (.sample 1) a = .next b ∧ exec (.sample 2) b = .next c ∧
    exec (.sample 3) c = .next d ∧ exec (.run 0) d = .next e ∧ exec (.run 1) e = .next f ∧ exec (.run 2) f = .next g ∧
    exec (.run 3) g = .next h ∧ exec .tick s = .next t ∧ (∀ k : Fin Config.nch, t.chan k = h.chan k) ∧
    t.res = { Result.ofStatus .ok with
      events := a.res.events ++ b.res.events ++ c.res.events ++ d.res.events ++ e.res.events ++ f.res.events ++
        g.res.events ++ h.res.events } ∧
    SameFramer s t ∧ SameStage s t ∧ t.lite = s.lite ∧ t.cmd = s.cmd ∧ t.inbox = s.inbox

/-- The channels are independent (R191): after a TICK, a channel's registers depend on that channel's registers and ports, on
NOW and on LITE alone. -/
def Obligations.TickChannelsAreIndependent : Prop :=
  ∀ (s s' t t' : State) (c : Fin Config.nch), s.chan c = s'.chan c → s.sensors c = s'.sensors c → s.now = s'.now →
    s.lite = s'.lite → exec .tick s = .next t → exec .tick s' = .next t' → t.chan c = t'.chan c

/-- R243: only RUN and TICK change PWM[c]; every other operation leaves PWM_OUT[c] at its value. -/
def Obligations.OnlyRunAndTickChangePwm : Prop :=
  ∀ (i : Instr) (s t : State) (c : Fin Config.nch), exec i s = .next t → t.pwmOut c ≠ s.pwmOut c →
    i = .tick ∨ ∃ ch, i = .run ch

/-- R244: every operation that changes MOTION[c] leaves both of the channel's controllers cleared and its latch released. -/
def Obligations.ModeChangesAlwaysClear : Prop :=
  ∀ (i : Instr) (s t : State) (c : Fin Config.nch), exec i s = .next t → (t.chan c).motion ≠ (s.chan c).motion →
    (t.chan c).pids = ⟨Config.zero, Config.zero⟩ ∧ (t.chan c).pidp = ⟨Config.zero, Config.zero⟩ ∧
      (t.chan c).latch = false

/-- RD_CH (R250): the channel's registers and LITE; every f32 that is not finite is reported as 0.0 and every other as it is;
no state change. -/
def Obligations.RdChReports : Prop :=
  ∀ (s : State) (ch : BitVec 3) (c : Fin Config.nch), ch.toNat = c.val →
    ∃ r : ChannelReport,
      exec (.rdCh ch) s = .next { s with res := { Result.ofStatus .ok with chan := some r } } ∧
      let k := s.chan c
      r.motion = k.motion ∧ r.pwm = k.pwm ∧ r.led = k.led ∧ r.tens = k.tens ∧ r.pres = k.pres ∧ r.latch = k.latch ∧
      r.dir = k.dir ∧ r.lite = s.lite ∧ r.color = k.color ∧
      ∀ x ∈ [(r.v, k.v), (r.speed, k.speed), (r.dist, k.dist), (r.dt, k.dt), (r.meters, k.meters), (r.ad, k.ad),
          (r.tv, k.tv), (r.td, k.td), (r.pwmZero, k.pwmZero)],
        (x.2.isFinite = true → x.1 = x.2) ∧ (x.2.isFinite = false → x.1 = Config.zero)
end

