-- ==== Sys2Proof/Laws/State.lean ====
section
/-! SUPPORT. One lemma per field per update of State and Channel, all true by rfl, and the two laws of reading a channel after
setting one. -/

namespace Sys2Proof.Machine

/-! ## setChan -/

@[simp] theorem State.setChan_fs (s : State) (c : Fin Config.nch) (k : Channel) : (s.setChan c k).fs = s.fs := rfl
@[simp] theorem State.setChan_idx (s : State) (c : Fin Config.nch) (k : Channel) : (s.setChan c k).idx = s.idx := rfl
@[simp] theorem State.setChan_buf (s : State) (c : Fin Config.nch) (k : Channel) : (s.setChan c k).buf = s.buf := rfl
@[simp] theorem State.setChan_crc8r (s : State) (c : Fin Config.nch) (k : Channel) : (s.setChan c k).crc8r = s.crc8r := rfl
@[simp] theorem State.setChan_short (s : State) (c : Fin Config.nch) (k : Channel) : (s.setChan c k).short = s.short := rfl
@[simp] theorem State.setChan_dlen (s : State) (c : Fin Config.nch) (k : Channel) : (s.setChan c k).dlen = s.dlen := rfl
@[simp] theorem State.setChan_pbuf (s : State) (c : Fin Config.nch) (k : Channel) : (s.setChan c k).pbuf = s.pbuf := rfl
@[simp] theorem State.setChan_plen (s : State) (c : Fin Config.nch) (k : Channel) : (s.setChan c k).plen = s.plen := rfl
@[simp] theorem State.setChan_prdy (s : State) (c : Fin Config.nch) (k : Channel) : (s.setChan c k).prdy = s.prdy := rfl
@[simp] theorem State.setChan_ovr (s : State) (c : Fin Config.nch) (k : Channel) : (s.setChan c k).ovr = s.ovr := rfl
@[simp] theorem State.setChan_lite (s : State) (c : Fin Config.nch) (k : Channel) : (s.setChan c k).lite = s.lite := rfl
@[simp] theorem State.setChan_cmd (s : State) (c : Fin Config.nch) (k : Channel) : (s.setChan c k).cmd = s.cmd := rfl
@[simp] theorem State.setChan_inbox (s : State) (c : Fin Config.nch) (k : Channel) : (s.setChan c k).inbox = s.inbox := rfl
@[simp] theorem State.setChan_res (s : State) (c : Fin Config.nch) (k : Channel) : (s.setChan c k).res = s.res := rfl
@[simp] theorem State.setChan_now (s : State) (c : Fin Config.nch) (k : Channel) : (s.setChan c k).now = s.now := rfl
@[simp] theorem State.setChan_sensors (s : State) (c d : Fin Config.nch) (k : Channel) :
    (s.setChan c k).sensors d = s.sensors d := rfl
@[simp] theorem State.setChan_opA (s : State) (c : Fin Config.nch) (k : Channel) : (s.setChan c k).opA = s.opA := rfl
@[simp] theorem State.setChan_opB (s : State) (c : Fin Config.nch) (k : Channel) : (s.setChan c k).opB = s.opB := rfl

@[simp] theorem State.chan_setChan_self (s : State) (c : Fin Config.nch) (k : Channel) : (s.setChan c k).chan c = k := by
  simp [State.chan, State.setChan]

theorem State.chan_setChan_ne (s : State) {c d : Fin Config.nch} (h : d ≠ c) (k : Channel) :
    (s.setChan c k).chan d = s.chan d := by
  have : c.val ≠ d.val := fun e => h (Fin.ext e.symm)
  simp [State.chan, State.setChan, Vector.getElem_set_ne, this]

theorem State.chan_setChan (s : State) (c d : Fin Config.nch) (k : Channel) :
    (s.setChan c k).chan d = if d = c then k else s.chan d := by
  by_cases h : d = c
  · rw [if_pos h, h, State.chan_setChan_self]
  · rw [if_neg h, State.chan_setChan_ne s h]

/-- Setting a channel to what it is changes nothing. -/
@[simp] theorem State.setChan_chan (s : State) (c : Fin Config.nch) : s.setChan c (s.chan c) = s := by
  simp [State.chan, State.setChan]

/-! ## RES, and the other one-field updates: the channels -/

@[simp] theorem State.chan_withRes (s : State) (r : Result) (c : Fin Config.nch) : State.chan { s with res := r } c = s.chan c := rfl
@[simp] theorem State.chan_setChan_res (s : State) (r : Result) (c d : Fin Config.nch) (k : Channel) :
    State.chan { s.setChan c k with res := r } d = (s.setChan c k).chan d := rfl
@[simp] theorem State.setChan_withRes (s : State) (r : Result) (c : Fin Config.nch) (k : Channel) :
    State.setChan { s with res := r } c k = { s.setChan c k with res := r } := rfl
@[simp] theorem State.now_withRes (s : State) (r : Result) : State.now { s with res := r } = s.now := rfl
@[simp] theorem State.sensors_withRes (s : State) (r : Result) (c : Fin Config.nch) :
    State.sensors { s with res := r } c = s.sensors c := rfl

/-! ## Channel updates that several operations share -/

@[simp] theorem Channel.setPid_speed (k : Channel) (p : Pid) : k.setPid .speed p = { k with pids := p } := rfl
@[simp] theorem Channel.setPid_pressure (k : Channel) (p : Pid) : k.setPid .pressure p = { k with pidp := p } := rfl
@[simp] theorem Channel.pid_speed (k : Channel) : k.pid .speed = k.pids := rfl
@[simp] theorem Channel.pid_pressure (k : Channel) : k.pid .pressure = k.pidp := rfl
@[simp] theorem gainsOf_speed (p : Config.Params) : gainsOf p .speed = p.speedGains := rfl
@[simp] theorem gainsOf_pressure (p : Config.Params) : gainsOf p .pressure = p.pressureGains := rfl

@[simp] theorem drive_pwm (num : Config.Num) (x : F32) (k : Channel) : (drive num x k).pwm = shape num x k.pwmZero := rfl
@[simp] theorem drive_motion (num : Config.Num) (x : F32) (k : Channel) : (drive num x k).motion = k.motion := rfl
@[simp] theorem drive_pids (num : Config.Num) (x : F32) (k : Channel) : (drive num x k).pids = k.pids := rfl
@[simp] theorem drive_pidp (num : Config.Num) (x : F32) (k : Channel) : (drive num x k).pidp = k.pidp := rfl
@[simp] theorem drive_latch (num : Config.Num) (x : F32) (k : Channel) : (drive num x k).latch = k.latch := rfl
@[simp] theorem drive_v (num : Config.Num) (x : F32) (k : Channel) : (drive num x k).v = k.v := rfl
@[simp] theorem drive_tens (num : Config.Num) (x : F32) (k : Channel) : (drive num x k).tens = k.tens := rfl
@[simp] theorem drive_pres (num : Config.Num) (x : F32) (k : Channel) : (drive num x k).pres = k.pres := rfl
@[simp] theorem drive_pwmZero (num : Config.Num) (x : F32) (k : Channel) : (drive num x k).pwmZero = k.pwmZero := rfl
@[simp] theorem drive_tv (num : Config.Num) (x : F32) (k : Channel) : (drive num x k).tv = k.tv := rfl
@[simp] theorem drive_td (num : Config.Num) (x : F32) (k : Channel) : (drive num x k).td = k.td := rfl
@[simp] theorem drive_color (num : Config.Num) (x : F32) (k : Channel) : (drive num x k).color = k.color := rfl

end Sys2Proof.Machine
end

