-- ==== Sys2Proof/Laws/Ops.lean ====
section
/-! SUPPORT. What each shared operation can do, said once: ending an operation, raising a status, the channel check, fetching a
request, and one step. -/

namespace Sys2Proof.Machine

@[simp] theorem finish_eq (r : Result) (s : State) : finish r s = .next { s with res := r } := rfl

/-- An operation that ends answers the state with the result in RES. -/
theorem finish_next {r : Result} {s t : State} (h : finish r s = .next t) : t = { s with res := r } := by
  injection h with h; exact h.symm

theorem raise_eq (e : Status) (s : State) : raise e s = .next { s with res := Result.ofStatus e } := rfl

/-- The channel check passes for CH below 4. -/
theorem withChannel_of_lt {ch : BitVec 3} {c : Fin Config.nch} (h : ch.toNat = c.val) (s : State)
    (k : Fin Config.nch → Host.Outcome State Fault Refusal) : withChannel ch s k = k c := by
  have hlt : ch.toNat < Config.nch := h ▸ c.isLt
  have hc : (⟨ch.toNat, hlt⟩ : Fin Config.nch) = c := Fin.ext h
  simp [withChannel, hlt, hc]

/-- The channel check fails for CH 4..7. -/
theorem withChannel_of_ge {ch : BitVec 3} (h : 4 ≤ ch.toNat) (s : State)
    (k : Fin Config.nch → Host.Outcome State Fault Refusal) : withChannel ch s k = raise .eChannel s := by
  simp [withChannel, Nat.not_lt.mpr h]

/-- What a channel operation can do: go on with its channel, or raise E_CHANNEL. -/
theorem withChannel_cases (ch : BitVec 3) (s : State) (k : Fin Config.nch → Host.Outcome State Fault Refusal) :
    (∃ c : Fin Config.nch, ch.toNat = c.val ∧ withChannel ch s k = k c) ∨
      (4 ≤ ch.toNat ∧ withChannel ch s k = .next { s with res := Result.ofStatus .eChannel }) := by
  by_cases h : ch.toNat < 4
  · exact .inl ⟨⟨ch.toNat, h⟩, rfl, withChannel_of_lt rfl s k⟩
  · exact .inr ⟨Nat.not_lt.mp h, withChannel_of_ge (Nat.not_lt.mp h) s k⟩

theorem fetch_nil {s : State} (h : s.inbox = []) : fetch s = none := by
  simp [fetch, h]

theorem fetch_cons {s : State} {r : Request} {rest : List Request} (h : s.inbox = r :: rest) :
    fetch s = some { s with cmd := r, inbox := rest } := by
  simp [fetch, h]

/-- What a step can do: nothing when no request waits; run the instruction of the oldest request; or answer the status of a
word that stands for none. -/
theorem step_cases (s : State) :
    (s.inbox = [] ∧ step s = .next s) ∨
    (∃ r rest i, s.inbox = r :: rest ∧ decodeCmd r.word = .ok i ∧
      step s = exec i { s with cmd := r, inbox := rest }) ∨
    (∃ r rest e, s.inbox = r :: rest ∧ decodeCmd r.word = .error e ∧
      step s = .next { s with cmd := r, inbox := rest, res := Result.ofStatus (rejectStatus e) }) := by
  cases hb : s.inbox with
  | nil => exact .inl ⟨rfl, by simp [step, fetch_nil hb]⟩
  | cons r rest =>
    right
    cases hd : decodeCmd r.word with
    | ok i => exact .inl ⟨r, rest, i, rfl, hd, by simp [step, fetch_cons hb, fetched, decode, hd]⟩
    | error e =>
      exact .inr ⟨r, rest, e, rfl, hd, by simp [step, fetch_cons hb, fetched, decode, hd, rejectWord, raise_eq]⟩

/-- A property that `exec` keeps, and that looks neither at the ports nor at RES, is kept by every step. -/
theorem step_preserves {P : State → Prop} (keeps : ∀ (i : Instr) (s t : State), P s → exec i s = .next t → P t)
    (ports : ∀ (s : State) (r : Request) (rest : List Request), P s → P { s with cmd := r, inbox := rest })
    (result : ∀ (s : State) (r : Result), P s → P { s with res := r }) {s t : State} (hs : P s)
    (h : step s = .next t) : P t := by
  rcases step_cases s with ⟨_, e⟩ | ⟨r, rest, i, _, _, e⟩ | ⟨r, rest, e, _, _, e'⟩
  · rw [e] at h; injection h with h; subst h; exact hs
  · rw [e] at h; exact keeps _ _ _ (ports _ _ _ hs) h
  · rw [e'] at h; injection h with h; subst h
    exact result { s with cmd := r, inbox := rest } _ (ports _ _ _ hs)

end Sys2Proof.Machine
end

