-- ==== Sys2Proof/Laws/Exec.lean ====
section
/-! SUPPORT. One equation per operation: what `exec` answers, over the shared functions, once the channel check has passed.
Later proofs cite these and never unfold an operation. -/

namespace Sys2Proof.Machine

/-! ## The framer -/

theorem exec_feed (b : Byte) (s : State) :
    exec (.feed b) s = .next { (feedByte b s).1 with res := (feedByte b s).2 } := rfl

theorem feedByte_seeking {s : State} (h : s.fs = .seeking) (b : Byte) :
    feedByte b s = (seekByte b s, feedResult .incomplete none []) := by
  simp [feedByte, h]

theorem feedByte_framing {s : State} (h : s.fs = .framing) (b : Byte) : feedByte b s = frameByte b s := by
  simp [feedByte, h]

/-! ## Operations on a channel in range -/

section
variable {ch : BitVec 3} {c : Fin Config.nch} (h : ch.toNat = c.val) (s : State)
include h

theorem exec_sample : exec (.sample ch) s =
    .next { s.setChan c (sampleChannel Config.params s.now (s.sensors c) (s.chan c)) with
      res := { Result.ofStatus .ok with events := presenceEvents c (s.sensors c) (s.chan c) } } := by
  simp only [exec, execSample, withChannel_of_lt h]; rfl

theorem exec_run : exec (.run ch) s =
    .next { s.setChan c (runChannel Config.params s.lite s.now (s.chan c)) with
      res := { Result.ofStatus .ok with events := moveEvents Config.params.num c (s.chan c) } } := by
  simp only [exec, execRun, withChannel_of_lt h]; rfl

theorem exec_pidClear (sel : Sel) : exec (.pidClear ch sel) s =
    .next { s.setChan c ((s.chan c).setPid sel Pid.cleared) with res := Result.ofStatus .ok } := by
  simp only [exec, execPidClear, withChannel_of_lt h]; rfl

theorem exec_pidStep (sel : Sel) (hok : pidOperandsBad s.opA s.opB = false) : exec (.pidStep ch sel) s =
    .next { s.setChan c ((s.chan c).setPid sel
        (pidAfter Config.params.num (gainsOf Config.params sel) ((s.chan c).pid sel) s.opA s.opB)) with
      res := { Result.ofStatus .ok with
        out := some (pidOut Config.params.num (gainsOf Config.params sel) ((s.chan c).pid sel) s.opA s.opB) } } := by
  simp [exec, execPidStep, withChannel_of_lt h, hok]

theorem exec_pwmShape : exec (.pwmShape ch) s =
    .next { s with res :=
      { Result.ofStatus .ok with val := some ((shape Config.params.num s.opA (s.chan c).pwmZero).setWidth 32) } } := by
  simp only [exec, execPwmShape, withChannel_of_lt h]; rfl

theorem exec_setMotion {mode : BitVec 3} {m : Motion} (hm : Motion.ofCode mode = some m) : exec (.setMotion ch mode) s =
    .next { s.setChan c (setMode m (s.chan c)) with res := Result.ofStatus .ok } := by
  simp [exec, execSetMotion, withChannel_of_lt h, hm]

theorem exec_setVelocity (ha : s.opA.isFinite = true) (hb : s.opB.isFinite = true) : exec (.setVelocity ch) s =
    .next { s.setChan c (setMode .velocity { s.chan c with tv := s.opA, td := s.opB, ad := Config.zero }) with
      res := Result.ofStatus .ok } := by
  simp [exec, execSetVelocity, withChannel_of_lt h, ha, hb]

theorem exec_wrMeters : exec (.wrMeters ch) s =
    .next { s.setChan c { s.chan c with meters := F32.clampf s.opA Config.zero Config.metersMax } with
      res := Result.ofStatus .ok } := by
  simp only [exec, execWrMeters, withChannel_of_lt h]; rfl

theorem exec_wrColor : exec (.wrColor ch) s =
    .next { s.setChan c { s.chan c with color := colorOf s.cmd.operands.a } with res := Result.ofStatus .ok } := by
  simp only [exec, execWrColor, withChannel_of_lt h]; rfl

theorem exec_cfgCh (dir : Bool) (ha : s.opA.isFinite = true) (hn : F32.lt s.opA Config.zero = false) :
    exec (.cfgCh ch dir) s =
      .next { s.setChan c { s.chan c with dir := dir, pwmZero := s.opA } with res := Result.ofStatus .ok } := by
  simp [exec, execCfgCh, withChannel_of_lt h, ha, hn]

theorem exec_rdCh : exec (.rdCh ch) s =
    .next { s with res := { Result.ofStatus .ok with chan := some (reportOf s.lite (s.chan c)) } } := by
  simp only [exec, execRdCh, withChannel_of_lt h]; rfl

end

/-! ## TICK -/

theorem exec_sample_at {ch : BitVec 3} {c : Fin Config.nch} (h : ch.toNat = c.val) (s : State) : exec (.sample ch) s =
    .next { (sampleAt Config.params c s).1 with
      res := { Result.ofStatus .ok with events := (sampleAt Config.params c s).2 } } :=
  exec_sample h s

theorem exec_run_at {ch : BitVec 3} {c : Fin Config.nch} (h : ch.toNat = c.val) (s : State) : exec (.run ch) s =
    .next { (runAt Config.params c s).1 with
      res := { Result.ofStatus .ok with events := (runAt Config.params c s).2 } } :=
  exec_run h s

/-- A sample reads nothing of RES. -/
theorem sampleAt_withRes (p : Config.Params) (c : Fin Config.nch) (s : State) (r : Result) :
    sampleAt p c { s with res := r } = ({ (sampleAt p c s).1 with res := r }, (sampleAt p c s).2) := rfl

/-- A run reads nothing of RES. -/
theorem runAt_withRes (p : Config.Params) (c : Fin Config.nch) (s : State) (r : Result) :
    runAt p c { s with res := r } = ({ (runAt p c s).1 with res := r }, (runAt p c s).2) := rfl

theorem exec_tick (s : State) : exec .tick s =
    .next { (tickAll Config.params s).1 with
      res := { Result.ofStatus .ok with events := (tickAll Config.params s).2 } } := rfl

/-! ## What an operation changes at most -/

/-- How an operation can change the state outside RES: not at all; through FEED, FRM_RESET or RDPKT; LITE alone; one
channel; or through TICK. -/
theorem exec_cases {i : Instr} {s t : State} (h : exec i s = .next t) :
    (∃ r, t = { s with res := r }) ∨
    (∃ b, i = .feed b ∧ t = { (feedByte b s).1 with res := (feedByte b s).2 }) ∨
    (i = .frmReset ∧ t = { s with
      fs := .seeking, idx := 0, crc8r := Config.crc8Init, short := false, dlen := 0, res := t.res }) ∨
    (i = .rdpkt ∧ t = { s with prdy := false, ovr := false, res := t.res }) ∨
    (∃ l, i = .cfgDev l ∧ t = { s with lite := l, res := t.res }) ∨
    (i = .tick ∧ t = { (tickAll Config.params s).1 with res := t.res }) ∨
    ∃ (ch : BitVec 3) (c : Fin Config.nch) (k : Channel), ch.toNat = c.val ∧ t = { s.setChan c k with res := t.res } ∧
      ((i = .sample ch ∧ k = sampleChannel Config.params s.now (s.sensors c) (s.chan c)) ∨
       (i = .run ch ∧ k = runChannel Config.params s.lite s.now (s.chan c)) ∨
       (∃ sel, i = .pidClear ch sel ∧ k = (s.chan c).setPid sel Pid.cleared) ∨
       (∃ sel, i = .pidStep ch sel ∧ k = (s.chan c).setPid sel
          (pidAfter Config.params.num (gainsOf Config.params sel) ((s.chan c).pid sel) s.opA s.opB)) ∨
       (∃ mode m, i = .setMotion ch mode ∧ Motion.ofCode mode = some m ∧ k = setMode m (s.chan c)) ∨
       (i = .setVelocity ch ∧ s.opA.isFinite = true ∧ s.opB.isFinite = true ∧
          k = setMode .velocity { s.chan c with tv := s.opA, td := s.opB, ad := Config.zero }) ∨
       (i = .wrMeters ch ∧ k = { s.chan c with meters := F32.clampf s.opA Config.zero Config.metersMax }) ∨
       (i = .wrColor ch ∧ k = { s.chan c with color := colorOf s.cmd.operands.a }) ∨
       (∃ d, i = .cfgCh ch d ∧ s.opA.isFinite = true ∧ F32.lt s.opA Config.zero = false ∧
          k = { s.chan c with dir := d, pwmZero := s.opA })) := by
  have only : ∀ r, finish r s = .next t → ∃ r, t = { s with res := r } := fun r h => ⟨r, finish_next h⟩
  have res : ∀ u r, finish r u = .next t → t = { u with res := t.res } := fun u r h => by
    have := finish_next h; rw [this]
  have wc : ∀ {ch k}, withChannel ch s k = .next t →
      (∃ r, t = { s with res := r }) ∨ ∃ c : Fin Config.nch, ch.toNat = c.val ∧ k c = .next t := by
    intro ch k hw
    rcases withChannel_cases ch s k with ⟨c, hc, e⟩ | ⟨_, e⟩ <;> rw [e] at hw
    · exact .inr ⟨c, hc, hw⟩
    · exact .inl (only _ hw)
  have idf : ∀ {n k v}, identified n k v s = .next t → ∃ r, t = { s with res := r } := by
    intro n k v hi
    unfold identified at hi
    split at hi <;> exact only _ hi
  cases i with
  | nop => exact .inl (only _ h)
  | feed b => exact .inr (.inl ⟨b, rfl, finish_next h⟩)
  | frmReset => exact .inr (.inr (.inl ⟨rfl, res _ _ h⟩))
  | rdpkt => exact .inr (.inr (.inr (.inl ⟨rfl, res _ _ h⟩)))
  | rdfrm => exact .inl (only _ h)
  | crc8Calc => simp only [exec, execCrc8Calc] at h; split at h <;> exact .inl (only _ h)
  | crc16Calc => simp only [exec, execCrc16Calc] at h; split at h <;> exact .inl (only _ h)
  | identify => exact .inl (idf h)
  | parseLong => simp only [exec, execParseLong] at h; split at h <;> exact .inl (only _ h)
  | buildWithCrc => simp only [exec, execBuildWithCrc] at h; split at h <;> exact .inl (only _ h)
  | buildLong => simp only [exec, execBuildLong] at h; split at h <;> exact .inl (only _ h)
  | tick => exact .inr (.inr (.inr (.inr (.inr (.inl ⟨rfl, res _ _ h⟩)))))
  | cfgDev l => exact .inr (.inr (.inr (.inr (.inl ⟨l, rfl, res _ _ h⟩))))
  | rdCh ch =>
    simp only [exec, execRdCh] at h
    rcases wc h with h | ⟨c, _, h⟩
    · exact .inl h
    · exact .inl (only _ h)
  | pwmShape ch =>
    simp only [exec, execPwmShape] at h
    rcases wc h with h | ⟨c, _, h⟩
    · exact .inl h
    · exact .inl (only _ h)
  | sample ch =>
    simp only [exec, execSample] at h
    rcases wc h with h | ⟨c, hc, h⟩
    · exact .inl h
    · exact .inr (.inr (.inr (.inr (.inr (.inr ⟨ch, c, _, hc, res _ _ h, .inl ⟨rfl, rfl⟩⟩)))))
  | run ch =>
    simp only [exec, execRun] at h
    rcases wc h with h | ⟨c, hc, h⟩
    · exact .inl h
    · exact .inr (.inr (.inr (.inr (.inr (.inr ⟨ch, c, _, hc, res _ _ h, .inr (.inl ⟨rfl, rfl⟩)⟩)))))
  | pidClear ch sel =>
    simp only [exec, execPidClear] at h
    rcases wc h with h | ⟨c, hc, h⟩
    · exact .inl h
    · exact .inr (.inr (.inr (.inr (.inr (.inr ⟨ch, c, _, hc, res _ _ h, .inr (.inr (.inl ⟨sel, rfl, rfl⟩))⟩)))))
  | pidStep ch sel =>
    simp only [exec, execPidStep] at h
    rcases wc h with h | ⟨c, hc, h⟩
    · exact .inl h
    · split at h
      · exact .inl (only _ h)
      · exact .inr (.inr (.inr (.inr (.inr (.inr
          ⟨ch, c, _, hc, res _ _ h, .inr (.inr (.inr (.inl ⟨sel, rfl, rfl⟩)))⟩)))))
  | setMotion ch mode =>
    simp only [exec, execSetMotion] at h
    rcases wc h with h | ⟨c, hc, h⟩
    · exact .inl h
    · cases hm : Motion.ofCode mode with
      | none => rw [hm] at h; exact .inl (only _ h)
      | some m =>
        rw [hm] at h
        exact .inr (.inr (.inr (.inr (.inr (.inr
          ⟨ch, c, _, hc, res _ _ h, .inr (.inr (.inr (.inr (.inl ⟨mode, m, rfl, hm, rfl⟩))))⟩)))))
  | setVelocity ch =>
    simp only [exec, execSetVelocity] at h
    rcases wc h with h | ⟨c, hc, h⟩
    · exact .inl h
    · split at h
      · exact .inl (only _ h)
      · rename_i hb
        simp only [Bool.or_eq_true, Bool.not_eq_true', not_or, Bool.not_eq_false] at hb
        exact .inr (.inr (.inr (.inr (.inr (.inr
          ⟨ch, c, _, hc, res _ _ h, .inr (.inr (.inr (.inr (.inr (.inl ⟨rfl, hb.1, hb.2, rfl⟩)))))⟩)))))
  | wrMeters ch =>
    simp only [exec, execWrMeters] at h
    rcases wc h with h | ⟨c, hc, h⟩
    · exact .inl h
    · exact .inr (.inr (.inr (.inr (.inr (.inr
        ⟨ch, c, _, hc, res _ _ h, .inr (.inr (.inr (.inr (.inr (.inr (.inl ⟨rfl, rfl⟩))))))⟩)))))
  | wrColor ch =>
    simp only [exec, execWrColor] at h
    rcases wc h with h | ⟨c, hc, h⟩
    · exact .inl h
    · exact .inr (.inr (.inr (.inr (.inr (.inr
        ⟨ch, c, _, hc, res _ _ h, .inr (.inr (.inr (.inr (.inr (.inr (.inr (.inl ⟨rfl, rfl⟩)))))))⟩)))))
  | cfgCh ch d =>
    simp only [exec, execCfgCh] at h
    rcases wc h with h | ⟨c, hc, h⟩
    · exact .inl h
    · split at h
      · exact .inl (only _ h)
      · rename_i hb
        simp only [Bool.or_eq_true, Bool.not_eq_true', not_or, Bool.not_eq_false, Bool.not_eq_true] at hb
        exact .inr (.inr (.inr (.inr (.inr (.inr
          ⟨ch, c, _, hc, res _ _ h, .inr (.inr (.inr (.inr (.inr (.inr (.inr (.inr ⟨d, rfl, hb.1, hb.2, rfl⟩)))))))⟩)))))
  | kindMotionShort f => exact .inl (idf h)
  | kindMotionLong f => exact .inl (idf h)
  | kindOnlineDetect f => exact .inl (idf h)
  | kindReqX6 f => exact .inl (idf h)
  | kindNfcDetect f => exact .inl (idf h)
  | kindSetFilamentInfo f => exact .inl (idf h)
  | kindHeartbeat f => exact .inl (idf h)
  | kindShortOther cmd f => exact .inl (idf h)
  | kindMcOnline f => exact .inl (idf h)
  | kindReadFilamentInfo f => exact .inl (idf h)
  | kindSetFilamentInfoV2 f => exact .inl (idf h)
  | kindVersion f => exact .inl (idf h)
  | kindSerialNumber f => exact .inl (idf h)
  | kindLongOther type f => exact .inl (idf h)
  | kindNone b => exact .inl (idf h)
  | kindUnknown b => exact .inl (idf h)

end Sys2Proof.Machine
end

