-- ==== Sys2Proof/Laws/Float.lean ====
section
/-! SUPPORT. What the binary32 comparisons and conversions can do, said once: comparisons of numbers are comparisons of their
values, a clamp answers inside its bounds, and truncation toward zero of a value in [−1000, 1000] fits an s16. -/

namespace Sys2Proof.F32

theorem lt_eq_true {x y : F32} : lt x y = true ↔ x.isNaN = false ∧ y.isNaN = false ∧ x.value < y.value := by
  simp [lt, and_assoc]

theorem le_eq_true {x y : F32} : le x y = true ↔ x.isNaN = false ∧ y.isNaN = false ∧ x.value ≤ y.value := by
  simp [le, and_assoc]

/-- Of two numbers, one is below the other or is not above it. -/
theorem lt_eq_false {x y : F32} (hx : x.isNaN = false) (hy : y.isNaN = false) : lt x y = false ↔ y.value ≤ x.value := by
  simp [lt, hx, hy]

/-- A finite value is no NaN. -/
theorem isNaN_of_isFinite {x : F32} (h : x.isFinite = true) : x.isNaN = false := by
  simp [isFinite, isNaN] at h ⊢; omega

theorem value_nonneg {x : F32} (h : x.neg = false) : x.value = (magValue x.mag : Int) := by
  simp [value, h]

theorem value_neg {x : F32} (h : x.neg = true) : x.value = -(magValue x.mag : Int) := by
  simp [value, h]

theorem natAbs_value (x : F32) : x.value.natAbs = magValue x.mag := by
  cases h : x.neg
  · rw [value_nonneg h]; simp
  · rw [value_neg h]; simp

/-- A clamp between two numbers that hold 0.0 between them answers one of four: a bound, 0.0 for a NaN, or its argument. -/
theorem clampf_cases (x lo hi : F32) :
    (lt x lo = true ∧ clampf x lo hi = lo) ∨ (lt x lo = false ∧ lt hi x = true ∧ clampf x lo hi = hi) ∨
    (x.isNaN = true ∧ clampf x lo hi = Config.zero) ∨
    (x.isNaN = false ∧ lt x lo = false ∧ lt hi x = false ∧ clampf x lo hi = x) := by
  unfold clampf
  cases h1 : lt x lo
  · cases h2 : lt hi x
    · cases h3 : x.isNaN <;> simp
    · simp
  · simp

/-! ## NUM at its default -/

/-- Untagged, so that what is said over any NUM stays over `Config.params.num` until a proof asks for binary32. -/
theorem params_num : Config.params.num = binary32 := rfl

@[simp] theorem binary32_add : binary32.add = add := rfl

@[simp] theorem binary32_sub : binary32.sub = sub := rfl

@[simp] theorem binary32_mul : binary32.mul = mul := rfl

@[simp] theorem binary32_div : binary32.div = div := rfl

@[simp] theorem binary32_ofInt : binary32.ofInt = ofInt := rfl

@[simp] theorem binary32_ofNat : binary32.ofNat = ofNat := rfl

end Sys2Proof.F32

namespace Sys2Proof.Machine

open F32 in
/-- A clamp answers inside its bounds, whatever its argument. -/
theorem within_clampf {lo hi : F32} (hlo : Within lo hi lo) (hhi : Within lo hi hi) (h0 : Within lo hi Config.zero)
    (x : F32) : Within lo hi (clampf x lo hi) := by
  rcases clampf_cases x lo hi with h | h | h | h
  · rw [h.2]; exact hlo
  · rw [h.2.2]; exact hhi
  · rw [h.2]; exact h0
  · obtain ⟨hn, h1, h2, he⟩ := h
    have hl := (le_eq_true.mp hlo.1).1
    have hh := (le_eq_true.mp hhi.2).1
    rw [he]
    exact ⟨le_eq_true.mpr ⟨hl, hn, (lt_eq_false hn hl).mp h1⟩, le_eq_true.mpr ⟨hn, hh, (lt_eq_false hh hn).mp h2⟩⟩

theorem outLim_value : Config.outLim.value = 1000 * 2 ^ 149 := by decide +kernel
theorem minusOutLim_value : (F32.negate Config.outLim).value = -(1000 * 2 ^ 149) := by decide +kernel

/-- A value in [−1000, 1000] truncates to the s16 of its whole part, with its sign. -/
theorem trunc16_toInt {y : F32} (h : Within (F32.negate Config.outLim) Config.outLim y) :
    (F32.trunc16 y).toInt =
      if y.neg then -((F32.magValue y.mag / 2 ^ 149 : Nat) : Int) else ((F32.magValue y.mag / 2 ^ 149 : Nat) : Int) := by
  obtain ⟨h1, h2⟩ := h
  have h1 := (F32.le_eq_true.mp h1).2.2
  have h2 := (F32.le_eq_true.mp h2).2.2
  rw [minusOutLim_value] at h1
  rw [outLim_value] at h2
  have hb : y.value.natAbs ≤ 1000 * 2 ^ 149 := by omega
  rw [F32.natAbs_value] at hb
  have hq : F32.magValue y.mag / 2 ^ 149 ≤ 1000 :=
    Nat.div_le_of_le_mul (by rw [Nat.mul_comm]; exact hb)
  unfold F32.trunc16
  split <;> rw [BitVec.toInt_ofInt] <;> rw [Int.bmod_eq_of_le] <;> omega

end Sys2Proof.Machine
end

