-- ==== Sys2Proof/Laws/Channel.lean ====
section
/-! SUPPORT. What SAMPLE, RUN, a mode write and TICK do to a channel, said once; and the ranges that the clamp, the shaping and
the sanitising answer in. -/

namespace Sys2Proof.Machine

/-! ## Ranges -/

/-- A clamp to ±m answers in [−m, m], for a magnitude m such as 1000.0. -/
theorem within_clampTo {m : F32} (h : Within (F32.negate m) m (F32.negate m) ∧ Within (F32.negate m) m m ∧
    Within (F32.negate m) m Config.zero) (x : F32) : Within (F32.negate m) m (clampTo m x) :=
  within_clampf h.1 h.2.1 h.2.2 x

/-- A PID integral is clamped to [−1000, 1000] (R222). -/
theorem within_clampTo_iLim (x : F32) : Within (F32.negate Config.iLim) Config.iLim (clampTo Config.iLim x) :=
  within_clampTo (by unfold Within; decide +kernel) x

/-- A PID output and the PWM are clamped to [−1000, 1000] (R224, R227). -/
theorem within_clampTo_outLim (x : F32) : Within (F32.negate Config.outLim) Config.outLim (clampTo Config.outLim x) :=
  within_clampTo (by unfold Within; decide +kernel) x

/-- What shaping answers: 0 for a NaN and inside the deadband, and otherwise the truncation of a value in [−1000, 1000]. -/
theorem shape_cases (num : Config.Num) (x pz : F32) :
    (shape num x pz = 0 ∧ (x.isNaN = true ∨ F32.le (F32.abs x) Config.deadband = true)) ∨
      (x.isNaN = false ∧ F32.le (F32.abs x) Config.deadband = false ∧
        shape num x pz = F32.trunc16 (clampTo Config.outLim (num.add x (num.mul (F32.sign x) pz)))) := by
  unfold shape
  cases h : x.isNaN <;> cases h' : F32.le (F32.abs x) Config.deadband <;> simp

theorem shape_zero (num : Config.Num) (pz : F32) : shape num Config.zero pz = 0 := by
  rcases shape_cases num Config.zero pz with h | h
  · exact h.1
  · exact absurd h.2.1 (by decide +kernel)

/-- Shaping answers an s16 in [−1000, 1000]. -/
theorem shape_range (num : Config.Num) (x pz : F32) : -1000 ≤ (shape num x pz).toInt ∧ (shape num x pz).toInt ≤ 1000 := by
  rcases shape_cases num x pz with h | ⟨_, _, h⟩
  · rw [h.1]; decide
  · have w := within_clampTo_outLim (num.add x (num.mul (F32.sign x) pz))
    rw [h, trunc16_toInt w]
    have h1 := (F32.le_eq_true.mp w.1).2.2
    have h2 := (F32.le_eq_true.mp w.2).2.2
    rw [minusOutLim_value] at h1
    rw [outLim_value] at h2
    have hv := F32.natAbs_value (clampTo Config.outLim (num.add x (num.mul (F32.sign x) pz)))
    have hq : F32.magValue (clampTo Config.outLim (num.add x (num.mul (F32.sign x) pz))).mag / 2 ^ 149 ≤ 1000 :=
      Nat.div_le_of_le_mul (by omega)
    split <;> omega

/-- Sanitising answers in [0.0, 3.3]. -/
theorem within_sanitize (x : F32) : Within Config.vMin Config.vMax (sanitize x) := by
  unfold sanitize
  split
  · unfold Within; decide +kernel
  · split
    · unfold Within; decide +kernel
    · split
      · unfold Within; decide +kernel
      · rename_i h1 h2 h3
        simp only [Bool.not_eq_true] at h1 h2 h3
        exact ⟨F32.le_eq_true.mpr ⟨by decide +kernel, h1, (F32.lt_eq_false h1 (by decide +kernel)).mp h2⟩,
          F32.le_eq_true.mpr ⟨h1, by decide +kernel, (F32.lt_eq_false (by decide +kernel) h1).mp h3⟩⟩

/-! ## SAMPLE -/

/-- The wrap correction of R196, in numbers. -/
theorem wrap12_eq (d : Int) : wrap12 d = if 2048 ≤ d then d - 4096 else if d < -2048 then d + 4096 else d := rfl

/-- An angle of ENC_BITS is below 4096, and it is the port's value modulo 4096 (R195). -/
theorem angle_toNat (x : BitVec 16) :
    (x.extractLsb' 0 Config.encBits).toNat = x.toNat % 4096 ∧ (x.extractLsb' 0 Config.encBits).toNat < 4096 := by
  have h : (x.extractLsb' 0 Config.encBits).toNat = x.toNat % 4096 := by
    simp [show 2 ^ Config.encBits = 4096 from rfl]
  exact ⟨h, h ▸ Nat.mod_lt _ (by decide)⟩

/-- SAMPLE's update of a channel, field by field. -/
theorem sampleChannel_eq (p : Config.Params) (now : BitVec 64) (x : Sensors) (k : Channel) :
    sampleChannel p now x k =
      { k with
        v := sanitize x.vin, tens := tension (sanitize x.vin), pres := x.pin,
        tLost := if k.pres && !x.pin then now else k.tLost, lostValid := k.lostValid || (k.pres && !x.pin),
        encPrev := x.enc.extractLsb' 0 Config.encBits, encValid := true, tPrev := now,
        dist := p.num.mul (p.num.ofInt (encDelta k (x.enc.extractLsb' 0 Config.encBits))) p.mmPerTick,
        dt := p.num.div (p.num.ofNat (elapsedMs k now)) Config.thousand,
        speed :=
          if 0 < elapsedMs k now then
            p.num.div (p.num.mul (p.num.ofInt (encDelta k (x.enc.extractLsb' 0 Config.encBits))) p.mmPerTick)
              (p.num.div (p.num.ofNat (elapsedMs k now)) Config.thousand)
          else k.speed,
        meters := p.num.add k.meters
          (p.num.div (p.num.mul (p.num.ofInt (encDelta k (x.enc.extractLsb' 0 Config.encBits))) p.mmPerTick) Config.thousand) } := by
  cases hp : k.pres <;> cases hx : x.pin <;>
    simp [sampleChannel, sampleEncoder, samplePresence, sampleVoltage, hp, hx, encDelta, elapsedMs]

/-! ## Mode writes and RUN -/

/-- What a mode write can do: nothing, when the mode is the channel's; or clear and set the mode. -/
theorem setMode_cases (m : Motion) (k : Channel) :
    (k.motion = m ∧ setMode m k = k) ∨
      (k.motion ≠ m ∧
        setMode m k = { k with pids := Pid.cleared, pidp := Pid.cleared, latch := false, motion := m }) := by
  by_cases h : m = k.motion
  · exact .inl ⟨h.symm, by simp [setMode, h]⟩
  · exact .inr ⟨fun e => h e.symm, by simp [setMode, h]⟩

/-- A driven controller changes itself and PWM. -/
theorem drivePid_eq (p : Config.Params) (sel : Sel) (e : F32) (k : Channel) :
    drivePid p sel e k =
      { k.setPid sel (pidAfter p.num (gainsOf p sel) (k.pid sel) e k.dt) with
        pwm := shape p.num (p.num.mul (dirf k.dir) (pidOut p.num (gainsOf p sel) (k.pid sel) e k.dt)) k.pwmZero } := by
  cases sel <;> rfl

/-- RUN leaves the sensor and configuration registers, the move's targets and the meters. -/
theorem runChannel_frame (p : Config.Params) (lite : Bool) (now : BitVec 64) (k : Channel) :
    ∃ (m : Motion) (ps pp : Pid) (ad : F32) (latch : Bool) (pwm : BitVec 16),
      runChannel p lite now k =
        { k with motion := m, pids := ps, pidp := pp, ad := ad, latch := latch, pwm := pwm,
                 led := ledOf k.tens k.pres k.color } := by
  refine ⟨(runChannel p lite now k).motion, (runChannel p lite now k).pids, (runChannel p lite now k).pidp,
    (runChannel p lite now k).ad, (runChannel p lite now k).latch, (runChannel p lite now k).pwm, ?_⟩
  simp only [runChannel, applyLaw, lawStop, lawSpeed, lawIdle, lawInUse, lawVelocity, drivePid_eq, drive, setMode]
  split <;> (repeat' split) <;> simp [Channel.setPid]

/-! ## TICK -/

/-- A sub-operation on each channel, written out for the four channels. -/
theorem eachChannel_eq (f : Fin Config.nch → State → State × List Event) (s : State) :
    eachChannel f s =
      let a := f 0 s
      let b := f 1 a.1
      let c := f 2 b.1
      let d := f 3 c.1
      (d.1, a.2 ++ b.2 ++ c.2 ++ d.2) := by
  simp [eachChannel, show List.finRange Config.nch = [0, 1, 2, 3] from rfl, eachOf]

/-- A channel after TICK: SAMPLE, then RUN, of that channel alone. -/
theorem tickAll_chan (p : Config.Params) (s : State) (c : Fin Config.nch) :
    (tickAll p s).1.chan c =
      runChannel p s.lite s.now (sampleChannel p s.now (s.sensors c) (s.chan c)) := by
  simp only [tickAll, eachChannel_eq, sampleAt, runAt]
  match c with
  | 0 => simp [State.chan_setChan]
  | 1 => simp [State.chan_setChan]
  | 2 => simp [State.chan_setChan]
  | 3 => simp [State.chan_setChan]

/-- TICK changes the channels alone. -/
theorem tickAll_frame (p : Config.Params) (s : State) : ∃ cs, (tickAll p s).1 = { s with chans := cs } :=
  ⟨(tickAll p s).1.chans, by simp only [tickAll, eachChannel_eq, sampleAt, runAt, State.setChan]⟩

/-! ## The framer and the stage, under every operation but FEED -/

/-- What an operation other than FEED can do to the framer and the stage: the byte arrays and PLEN stay, the framer stays or
returns to SEEKING, and PRDY and OVR stay or are both cleared. -/
theorem exec_framer_cases {i : Instr} {s t : State} (h : exec i s = .next t) :
    (∃ b, i = .feed b ∧ t = { (feedByte b s).1 with res := (feedByte b s).2 }) ∨
    (t.buf = s.buf ∧ t.pbuf = s.pbuf ∧ t.plen = s.plen ∧
      ((t.fs = s.fs ∧ t.idx = s.idx ∧ t.crc8r = s.crc8r ∧ t.short = s.short ∧ t.dlen = s.dlen) ∨
        (t.fs = .seeking ∧ t.idx = 0)) ∧
      ((t.prdy = s.prdy ∧ t.ovr = s.ovr) ∨ (t.prdy = false ∧ t.ovr = false))) := by
  have same : ∀ u : State, u.buf = s.buf → u.pbuf = s.pbuf → u.plen = s.plen → u.fs = s.fs → u.idx = s.idx →
      u.crc8r = s.crc8r → u.short = s.short → u.dlen = s.dlen → u.prdy = s.prdy → u.ovr = s.ovr →
      (u.buf = s.buf ∧ u.pbuf = s.pbuf ∧ u.plen = s.plen ∧
        ((u.fs = s.fs ∧ u.idx = s.idx ∧ u.crc8r = s.crc8r ∧ u.short = s.short ∧ u.dlen = s.dlen) ∨
          (u.fs = .seeking ∧ u.idx = 0)) ∧
        ((u.prdy = s.prdy ∧ u.ovr = s.ovr) ∨ (u.prdy = false ∧ u.ovr = false))) :=
    fun u a b c d e f g i j k => ⟨a, b, c, .inl ⟨d, e, f, g, i⟩, .inl ⟨j, k⟩⟩
  rcases exec_cases h with ⟨r, e⟩ | ⟨b, hb, e⟩ | ⟨_, e⟩ | ⟨_, e⟩ | ⟨l, _, e⟩ | ⟨_, e⟩ | ⟨ch, d, k, _, e, _⟩
  · rw [e]; exact .inr (same _ rfl rfl rfl rfl rfl rfl rfl rfl rfl rfl)
  · exact .inl ⟨b, hb, e⟩
  · rw [e]; exact .inr ⟨rfl, rfl, rfl, .inr ⟨rfl, rfl⟩, .inl ⟨rfl, rfl⟩⟩
  · rw [e]; exact .inr ⟨rfl, rfl, rfl, .inl ⟨rfl, rfl, rfl, rfl, rfl⟩, .inr ⟨rfl, rfl⟩⟩
  · rw [e]; exact .inr (same _ rfl rfl rfl rfl rfl rfl rfl rfl rfl rfl)
  · obtain ⟨cs, hcs⟩ := tickAll_frame Config.params s
    rw [e, hcs]; exact .inr (same _ rfl rfl rfl rfl rfl rfl rfl rfl rfl rfl)
  · rw [e]; exact .inr (same _ rfl rfl rfl rfl rfl rfl rfl rfl rfl rfl)

end Sys2Proof.Machine
end

