-- ==== Sys2Proof/Laws/Crc.lean ====
section
/-! SUPPORT. The CRCs take their bytes one at a time, a CRC16 byte step is one-to-one, and the little-endian reads and writes of
a 16-bit field. -/

namespace Sys2Proof.Machine

@[simp] theorem crc8_nil : crc8 [] = Config.crc8Init := rfl

@[simp] theorem crc16_nil : crc16 [] = Config.crc16Init := rfl

/-- The CRC8 of one more byte. -/
theorem crc8_append (bytes : List Byte) (b : Byte) : crc8 (bytes ++ [b]) = crc8Step (crc8 bytes) b := by
  simp [crc8, crc8From]

/-- The CRC16 of one more byte. -/
theorem crc16_append (bytes : List Byte) (b : Byte) : crc16 (bytes ++ [b]) = crc16Step (crc16 bytes) b := by
  simp [crc16, crc16From]

/-- A round of the CRC16 is one-to-one: bit 0 of its result tells which branch was taken. -/
theorem crc16Round_injective {x y : BitVec 16} (h : crc16Round x = crc16Round y) : x = y := by
  have low : ∀ z : BitVec 16, (crc16Round z).getLsbD 0 = z.msb := by
    intro z
    unfold crc16Round
    cases hz : z.msb <;> simp [Config.crc16Poly]
  have high : ∀ (z : BitVec 16) (i : Nat), i < 15 →
      (crc16Round z).getLsbD (i + 1) = (z.getLsbD i ^^ (z.msb && Config.crc16Poly.getLsbD (i + 1))) := by
    intro z i hi
    unfold crc16Round
    cases hz : z.msb <;> simp [show i + 1 < 16 by omega, BitVec.getLsbD_eq_getElem (show i < 16 by omega)]
  have hm : x.msb = y.msb := by rw [← low, ← low, h]
  apply BitVec.eq_of_getLsbD_eq
  intro i hi
  by_cases h15 : i = 15
  · subst h15
    rw [BitVec.msb_eq_getLsbD_last, BitVec.msb_eq_getLsbD_last] at hm
    exact hm
  · have hx := high x i (by omega)
    have hy := high y i (by omega)
    rw [h, hy, hm] at hx
    exact (Bool.xor_left_inj.mp hx).symm

/-- SHORT_BIT is bit 7 of the header byte (spec/30_encoding.md R94). -/
@[simp] theorem isShort_eq_msb (h : Byte) : isShort h = h.msb := by
  revert h; decide +kernel

/-- The CRC16 check, with its length in numbers (R122). -/
theorem crc16Ok_eq (b : List Byte) :
    crc16Ok b = (decide (2 ≤ b.length) && (crc16 (b.take (b.length - 2)) == rd16 b (b.length - 2))) := rfl

/-! ## Bytes and little-endian fields -/

@[simp] theorem byteAt_set_self {b : List Byte} {i : Nat} (h : i < b.length) (x : Byte) : byteAt (b.set i x) i = x := by
  simp [byteAt, List.getD, h]

theorem byteAt_set_ne {b : List Byte} {i j : Nat} (h : j ≠ i) (x : Byte) : byteAt (b.set i x) j = byteAt b j := by
  simp [byteAt, List.getD, List.getElem?_set_ne (Ne.symm h)]

/-- A field's value, from its two bytes. -/
theorem field16_toNat (lo hi : Byte) : (field16 lo hi).toNat = lo.toNat + 256 * hi.toNat := by
  have hl := lo.isLt
  unfold field16
  rw [BitVec.toNat_append, Nat.shiftLeft_eq, Nat.mul_comm, ← Nat.two_pow_add_eq_or_of_lt hl]
  omega

theorem lo8_toNat (v : BitVec 16) : (lo8 v).toNat = v.toNat % 256 := by
  simp [lo8]

theorem hi8_toNat (v : BitVec 16) : (hi8 v).toNat = v.toNat / 256 := by
  have := v.isLt
  simp [hi8, Nat.shiftRight_eq_div_pow]
  omega

@[simp] theorem lo8_field16 (lo hi : Byte) : lo8 (field16 lo hi) = lo := by
  apply BitVec.eq_of_toNat_eq
  rw [lo8_toNat, field16_toNat]
  have := lo.isLt
  omega

@[simp] theorem hi8_field16 (lo hi : Byte) : hi8 (field16 lo hi) = hi := by
  apply BitVec.eq_of_toNat_eq
  rw [hi8_toNat, field16_toNat]
  have := lo.isLt
  omega

@[simp] theorem field16_lo8_hi8 (v : BitVec 16) : field16 (lo8 v) (hi8 v) = v := by
  apply BitVec.eq_of_toNat_eq
  rw [field16_toNat, lo8_toNat, hi8_toNat]
  omega

/-- The framer's way of joining the two length bytes (spec/40_frame_decoder.md R124) is the little-endian field. -/
theorem or_shift_eq_field16 (lo hi : Byte) : (lo.setWidth 16 ||| (hi.setWidth 16 <<< 8)) = field16 lo hi := by
  apply BitVec.eq_of_toNat_eq
  have hl := lo.isLt
  have hh := hi.isLt
  rw [field16_toNat, BitVec.toNat_or, BitVec.toNat_shiftLeft, BitVec.toNat_setWidth, BitVec.toNat_setWidth,
    Nat.mod_eq_of_lt (show lo.toNat < 2 ^ 16 by omega), Nat.mod_eq_of_lt (show hi.toNat < 2 ^ 16 by omega),
    Nat.shiftLeft_eq, Nat.mod_eq_of_lt (show hi.toNat * 2 ^ 8 < 2 ^ 16 by omega), Nat.or_comm, Nat.mul_comm,
    ← Nat.two_pow_add_eq_or_of_lt hl]
  omega

theorem rd16_toNat (b : List Byte) (i : Nat) :
    (rd16 b i).toNat = (byteAt b i).toNat + 256 * (byteAt b (i + 1)).toNat :=
  field16_toNat _ _

@[simp] theorem length_wr16 (b : List Byte) (i : Nat) (v : BitVec 16) : (wr16 b i v).length = b.length := by
  simp [wr16]

/-- The field just written is read back. -/
theorem rd16_wr16_self {b : List Byte} {i : Nat} (h : i + 1 < b.length) (v : BitVec 16) : rd16 (wr16 b i v) i = v := by
  unfold rd16 wr16
  rw [byteAt_set_ne (by omega), byteAt_set_self (by omega), byteAt_set_self (by simpa using h), field16_lo8_hi8]

/-- A 16-bit write leaves every other byte. -/
theorem byteAt_wr16_ne {b : List Byte} {i j : Nat} (h : j ≠ i) (h' : j ≠ i + 1) (v : BitVec 16) :
    byteAt (wr16 b i v) j = byteAt b j := by
  unfold wr16
  rw [byteAt_set_ne h', byteAt_set_ne h]

/-- Bytes before a written field. -/
theorem take_wr16 {b : List Byte} {i k : Nat} (h : k ≤ i) (v : BitVec 16) : (wr16 b i v).take k = b.take k := by
  unfold wr16
  rw [List.take_set_of_le (by omega), List.take_set_of_le h]

end Sys2Proof.Machine
end

