-- ==== Sys2Proof/Laws/Encoding.lean ====
section
/-! SUPPORT. The fields of a command word: each is read back from `cmdWord`, and a word whose RSV is zero is the word of its
fields. Also the shape of an encoded wire frame. -/

namespace Sys2Proof

@[simp] theorem opcOf_cmdWord (o : BitVec 8) (c : BitVec 3) (s : Bool) (m : BitVec 16) : opcOf (cmdWord o c s m) = o := by
  unfold opcOf cmdWord
  apply BitVec.eq_of_getLsbD_eq
  intro i hi
  rw [BitVec.getLsbD_extractLsb']
  simp only [BitVec.getLsbD_append]
  simp [show i < 11 by omega, show i < 12 by omega, show i < 16 by omega, hi]

@[simp] theorem chOf_cmdWord (o : BitVec 8) (c : BitVec 3) (s : Bool) (m : BitVec 16) : chOf (cmdWord o c s m) = c := by
  unfold chOf cmdWord
  apply BitVec.eq_of_getLsbD_eq
  intro i hi
  rw [BitVec.getLsbD_extractLsb']
  simp only [BitVec.getLsbD_append]
  simp [show 8 + i < 11 by omega, show 8 + i < 12 by omega, show 8 + i < 16 by omega, hi]

@[simp] theorem selBit_cmdWord (o : BitVec 8) (c : BitVec 3) (s : Bool) (m : BitVec 16) : selBit (cmdWord o c s m) = s := by
  unfold selBit cmdWord
  simp only [BitVec.getLsbD_append]
  simp

@[simp] theorem rsvOf_cmdWord (o : BitVec 8) (c : BitVec 3) (s : Bool) (m : BitVec 16) : rsvOf (cmdWord o c s m) = 0 := by
  unfold rsvOf cmdWord
  apply BitVec.eq_of_getLsbD_eq
  intro i hi
  rw [BitVec.getLsbD_extractLsb']
  simp only [BitVec.getLsbD_append]
  simp [show ¬ 12 + i < 12 by omega, show 12 + i < 16 by omega]

@[simp] theorem immOf_cmdWord (o : BitVec 8) (c : BitVec 3) (s : Bool) (m : BitVec 16) : immOf (cmdWord o c s m) = m := by
  unfold immOf cmdWord
  rw [BitVec.extractLsb'_append_eq_left]

/-- A word is made of its five fields (R80). -/
theorem word_fields (w : Word) : w = immOf w ++ (rsvOf w ++ (BitVec.ofBool (selBit w) ++ (chOf w ++ opcOf w))) := by
  unfold immOf rsvOf selBit chOf opcOf
  apply BitVec.eq_of_getLsbD_eq
  intro i hi
  simp only [BitVec.getLsbD_append, BitVec.getLsbD_extractLsb', BitVec.getLsbD_ofBool]
  by_cases h8 : i < 8
  · simp [h8, show i < 11 by omega, show i < 12 by omega, show i < 16 by omega]
  · by_cases h11 : i < 11
    · simp [h8, h11, show i < 12 by omega, show i < 16 by omega, show i - 8 < 3 by omega, show 8 + (i - 8) = i by omega]
    · by_cases h12 : i < 12
      · have : i = 11 := by omega
        subst this
        simp
      · by_cases h16 : i < 16
        · simp [h12, h16, show i - 12 < 4 by omega, show 12 + (i - 12) = i by omega]
        · simp [h16, show i - 16 < 16 by omega, show 16 + (i - 16) = i by omega]

/-- A word whose RSV is zero is the word of its other fields. -/
theorem word_eq_cmdWord {w : Word} (h : rsvOf w = 0) : w = cmdWord (opcOf w) (chOf w) (selBit w) (immOf w) := by
  conv => lhs; rw [word_fields w, h]
  rfl

/-! ## Wire frames -/

/-- The 15 of spec/41_packet_codec.md R174, in numbers. -/
@[simp] theorem longOverhead_eq : Config.longOverhead = 15 := rfl

@[simp] theorem longHeaderLen_eq : Config.longHeaderLen = 13 := rfl

@[simp] theorem crcLen_eq : Config.crcLen = 2 := rfl

@[simp] theorem payMax_eq : Config.payMax = 984 := rfl

/-- When no discriminator can be read, with the configured headers and lengths in numbers (spec/41_packet_codec.md R169). -/
theorem noDiscriminator_eq_true {b : List Byte} :
    noDiscriminator b = true ↔
      (Machine.byteAt b 1 ≠ 0xC5 ∧ Machine.byteAt b 1 ≠ 0x05) ∨ (Machine.byteAt b 1 = 0xC5 ∧ b.length < 7) ∨
        (Machine.byteAt b 1 = 0x05 ∧ b.length < 15) := by
  have e : noDiscriminator b =
      ((Machine.byteAt b 1 != 0xC5 && Machine.byteAt b 1 != 0x05) ||
        (Machine.byteAt b 1 == 0xC5 && decide (b.length < 7)) ||
        (Machine.byteAt b 1 == 0x05 && decide (b.length < 15))) := rfl
  rw [e]
  simp [or_assoc]

@[simp] theorem length_withCrc16 (b : List Byte) : (withCrc16 b).length = b.length + 2 := by
  simp [withCrc16]

/-- A byte of a frame before its CRC16. -/
theorem byteAt_withCrc16 {b : List Byte} {i : Nat} (h : i < b.length) :
    Machine.byteAt (withCrc16 b) i = Machine.byteAt b i := by
  simp [Machine.byteAt, withCrc16, List.getD, List.getElem?_append_left h]

/-- A frame closed by its CRC16 passes the check (spec/40_frame_decoder.md R122). -/
theorem crc16Ok_withCrc16 (b : List Byte) : Machine.crc16Ok (withCrc16 b) = true := by
  have h0 : Machine.byteAt (withCrc16 b) b.length = Machine.lo8 (Machine.crc16 b) := by
    simp [Machine.byteAt, withCrc16, List.getD]
  have h1 : Machine.byteAt (withCrc16 b) (b.length + 1) = Machine.hi8 (Machine.crc16 b) := by
    simp [Machine.byteAt, withCrc16, List.getD]
  have ht : (withCrc16 b).take b.length = b := by simp [withCrc16]
  simp [Machine.crc16Ok_eq, Machine.rd16, h0, h1, ht]

/-- A buffer that passes the check is its bytes before the CRC16, closed by their CRC16. -/
theorem eq_withCrc16_of_crc16Ok {b : List Byte} (h : Machine.crc16Ok b = true) :
    b = withCrc16 (b.take (b.length - 2)) := by
  simp only [Machine.crc16Ok_eq, Bool.and_eq_true, decide_eq_true_eq, beq_iff_eq] at h
  obtain ⟨h2, hc⟩ := h
  unfold withCrc16
  rw [hc, Machine.rd16, Machine.lo8_field16, Machine.hi8_field16]
  have e : b.drop (b.length - 2) = [Machine.byteAt b (b.length - 2), Machine.byteAt b (b.length - 2 + 1)] := by
    have ha : b.length - 2 < b.length := by omega
    have hb : b.length - 2 + 1 < b.length := by omega
    rw [List.drop_eq_getElem_cons ha, List.drop_eq_getElem_cons hb, List.drop_eq_nil_of_le (by omega)]
    simp [Machine.byteAt, List.getD, ha, hb]
  rw [← e, List.take_append_drop]

end Sys2Proof
end

