-- ==== Sys2Proof/Laws/Codec.lean ====
section
/-! SUPPORT. What the serialisers' buffers hold, said once: length, bytes left alone, the CRC8 at COFF and the CRC16 in the last
two bytes; and IDENTIFY's answer for a buffer of at most 1000 bytes. -/

namespace Sys2Proof.Machine

/-- COFF of a buffer to build, by bit 7 of its header byte (R172). -/
theorem buildCoff_eq (b : List Byte) : buildCoff b = if (byteAt b 1).msb then 3 else 6 := by
  simp [buildCoff, coff]

/-- The CRC16 is written over the last two bytes (R172). -/
theorem withTailCrc_eq (b : List Byte) : withTailCrc b = wr16 b (b.length - 2) (crc16 (b.take (b.length - 2))) := rfl

theorem buildCoff_pos (b : List Byte) : 3 ≤ buildCoff b := by rw [buildCoff_eq]; split <;> decide

theorem buildCoff_le (b : List Byte) : buildCoff b ≤ 6 := by rw [buildCoff_eq]; split <;> decide

@[simp] theorem length_withHeaderCrc (b : List Byte) : (withHeaderCrc b).length = b.length := by simp [withHeaderCrc]

@[simp] theorem length_built (b : List Byte) : (built b).length = b.length := by simp [built, withTailCrc_eq]

/-- The length test of BUILD_WITH_CRC (R172). -/
theorem buildLengthBad_eq_false {b : List Byte} :
    buildLengthBad b = false ↔ 2 ≤ b.length ∧ b.length ≤ 1000 ∧ buildCoff b + 3 ≤ b.length := by
  simp only [buildLengthBad, Bool.or_eq_false_iff, decide_eq_false_iff_not]
  simp only [Config.pktMax]
  omega

/-- A byte that BUILD_WITH_CRC leaves alone. -/
theorem byteAt_built_ne {b : List Byte} {j : Nat} (hc : j ≠ buildCoff b) (h2 : j ≠ b.length - 2)
    (h1 : j ≠ b.length - 2 + 1) : byteAt (built b) j = byteAt b j := by
  rw [built, withTailCrc_eq]
  rw [byteAt_wr16_ne (by simpa using h2) (by simpa using h1)]
  exact byteAt_set_ne hc _

/-- The bytes before the CRC16 of a built buffer. -/
theorem take_built (b : List Byte) {k : Nat} (h : k ≤ b.length - 2) : (built b).take k = (withHeaderCrc b).take k := by
  rw [built, withTailCrc_eq]
  exact take_wr16 (by simpa using h) _

/-- The bytes before COFF of a built buffer are those of the buffer it was built from. -/
theorem take_coff_built {b : List Byte} (h : buildCoff b + 3 ≤ b.length) :
    (built b).take (buildCoff b) = b.take (buildCoff b) := by
  rw [take_built b (by omega)]
  exact List.take_set_of_le (Nat.le_refl _)

/-- Building keeps the header byte, so it keeps COFF. -/
theorem buildCoff_built {b : List Byte} (h : buildCoff b + 3 ≤ b.length) : buildCoff (built b) = buildCoff b := by
  have h3 := buildCoff_pos b
  have : byteAt (built b) 1 = byteAt b 1 := byteAt_built_ne (by omega) (by omega) (by omega)
  simp [buildCoff_eq, this]

/-- The header CRC8 of a built buffer (R172). -/
theorem byteAt_built_coff {b : List Byte} (h : buildCoff b + 3 ≤ b.length) :
    byteAt (built b) (buildCoff b) = crc8 (b.take (buildCoff b)) := by
  rw [built, withTailCrc_eq]
  rw [byteAt_wr16_ne (by simp; omega) (by simp; omega)]
  exact byteAt_set_self (by omega) _

/-- The CRC16 of a built buffer (R172). -/
theorem rd16_built {b : List Byte} (h : buildCoff b + 3 ≤ b.length) :
    rd16 (built b) (b.length - 2) = crc16 ((built b).take (b.length - 2)) := by
  rw [take_built b (Nat.le_refl _)]
  rw [built, withTailCrc_eq]
  have hl : (withHeaderCrc b).length = b.length := length_withHeaderCrc b
  rw [hl]
  exact rd16_wr16_self (by rw [hl]; omega) _

/-- A built buffer passes the CRC16 check. -/
theorem crc16Ok_built {b : List Byte} (h : buildCoff b + 3 ≤ b.length) : crc16Ok (built b) = true := by
  simp [crc16Ok_eq, rd16_built h, show 2 ≤ b.length by omega]

/-! ## IDENTIFY and PARSE_LONG, with the configured codes and lengths in numbers -/

theorem shortKind_eq (x : Byte) :
    shortKind x =
      if x = 0x03 then .motionShort
      else if x = 0x04 then .motionLong
      else if x = 0x05 then .onlineDetect
      else if x = 0x06 then .reqX6
      else if x = 0x07 then .nfcDetect
      else if x = 0x08 then .setFilamentInfo
      else if x = 0x20 then .heartbeat
      else .shortOther := rfl

theorem longKind_eq (t : BitVec 16) :
    longKind t =
      if t = 0x021A then .mcOnline
      else if t = 0x0211 then .readFilamentInfo
      else if t = 0x0218 then .setFilamentInfoV2
      else if t = 0x0103 then .version
      else if t = 0x0402 then .serialNumber
      else .longOther := rfl

theorem longView_eq (b : List Byte) :
    longView b =
      { packageNumber := rd16 b 2, packageLength := rd16 b 4, crc8 := byteAt b 6, targetAddress := rd16 b 7,
        sourceAddress := rd16 b 9, type := rd16 b 11, datas := (b.drop 13).take (b.length - 15),
        dataLength := BitVec.ofNat 16 (b.length - 15) } := rfl

theorem identified_of_le {n : Nat} (h : n ≤ 1000) (k : PacketKind) (v : Option (BitVec 32)) (s : State) :
    identified n k v s =
      .next { s with res := { Result.ofStatus .ok with kind := some k, len := some (BitVec.ofNat 16 n), val := v } } := by
  have : ¬ Config.pktMax < n := by simp [Config.pktMax]; omega
  simp only [identified, if_neg this]
  rfl

theorem identified_of_gt {n : Nat} (h : 1000 < n) (k : PacketKind) (v : Option (BitVec 32)) (s : State) :
    identified n k v s = .next { s with res := { Result.ofStatus .eLength with kind := some .none } } := by
  have : Config.pktMax < n := h
  simp only [identified, if_pos this]
  rfl

/-- How a buffer is classified (R150): by its CRC16, its header byte, its length and its discriminator, in that order. -/
theorem classify_cases (b : List Byte) :
    (crc16Ok b = false ∧ classify b = (.none, none)) ∨
    (crc16Ok b = true ∧ noDiscriminator b = true ∧ classify b = (.unknown, none)) ∨
    (crc16Ok b = true ∧ noDiscriminator b = false ∧ byteAt b 1 = Config.shortHeader ∧
      classify b = (shortKind (byteAt b 4), some ((byteAt b 4).setWidth 32))) ∨
    (crc16Ok b = true ∧ noDiscriminator b = false ∧ byteAt b 1 = Config.longHeader ∧
      classify b = (longKind (rd16 b 11), some ((rd16 b 11).setWidth 32))) := by
  have hne : ¬ Config.longHeader = Config.shortHeader := by decide
  cases hc : crc16Ok b
  · exact .inl ⟨rfl, by simp [classify, hc]⟩
  · right
    by_cases hs : byteAt b 1 = Config.shortHeader
    · by_cases h7 : b.length < 7
      · exact .inl ⟨rfl, by simp [noDiscriminator, hs, h7], by simp [classify, hc, hs, h7]⟩
      · exact .inr (.inl ⟨rfl, by simp [noDiscriminator, hs, h7, Ne.symm hne], hs, by simp [classify, hc, hs, h7]⟩)
    · by_cases hl : byteAt b 1 = Config.longHeader
      · by_cases h15 : b.length < 15
        · exact .inl ⟨rfl, by simp [noDiscriminator, hl, h15], by simp [classify, hc, hl, hne, h15]⟩
        · exact .inr (.inr ⟨rfl, by simp [noDiscriminator, hl, hne, h15], hl, by simp [classify, hc, hl, hne, h15]⟩)
      · exact .inl ⟨rfl, by simp [noDiscriminator, hs, hl], by simp [classify, hc, hs, hl]⟩

end Sys2Proof.Machine
end

