-- ==== Sys2Proof/Laws/Memory.lean ====
section
/-! SUPPORT. What the memory operations do: reading after writing, keeping the canonical form, and equality of canonical
memories that read alike. -/

namespace Sys2Proof.Machine

@[simp] theorem Memory.read_nil (a : Nat) : Memory.read [] a = Memory.unlisted := rfl

theorem Memory.read_cons (k : Nat) (v : Byte) (m : Memory) (a : Nat) :
    Memory.read ((k, v) :: m) a = if k = a then v else Memory.read m a := rfl

theorem Memory.wfFrom_cons {lo k : Nat} {v : Byte} {m : Memory} :
    Memory.wfFrom lo ((k, v) :: m) = true ↔
      lo ≤ k ∧ k < Config.pktMax ∧ v ≠ Memory.unlisted ∧ Memory.wfFrom (k + 1) m = true := by
  simp [Memory.wfFrom, and_assoc]

theorem Memory.wfFrom_mono {lo lo' : Nat} (h : lo' ≤ lo) : ∀ {m : Memory}, Memory.wfFrom lo m = true →
    Memory.wfFrom lo' m = true
  | [], _ => rfl
  | (k, v) :: m, hm => by
    rw [Memory.wfFrom_cons] at hm ⊢
    exact ⟨by omega, hm.2⟩

/-- An offset below the canonical start is not listed. -/
theorem Memory.read_below {lo : Nat} : ∀ {m : Memory}, Memory.wfFrom lo m = true → ∀ {a : Nat}, a < lo →
    Memory.read m a = Memory.unlisted
  | [], _, _, _ => rfl
  | (k, v) :: m, hm, a, ha => by
    rw [Memory.wfFrom_cons] at hm
    rw [Memory.read_cons, if_neg (by omega)]
    exact Memory.read_below hm.2.2.2 (by omega)

/-- The byte just written is read back. -/
theorem Memory.read_write_self {lo : Nat} : ∀ {m : Memory}, Memory.wfFrom lo m = true → ∀ (a : Nat) (b : Byte),
    Memory.read (Memory.write m a b) a = b
  | [], _, a, b => by
    by_cases hb : b = Memory.unlisted <;> simp [Memory.write, Memory.read, hb]
  | (k, v) :: m, hm, a, b => by
    rw [Memory.wfFrom_cons] at hm
    have below : a < k → Memory.read m a = Memory.unlisted := fun h => Memory.read_below hm.2.2.2 (by omega)
    have atk : Memory.read m k = Memory.unlisted := Memory.read_below hm.2.2.2 (by omega)
    rcases Nat.lt_trichotomy a k with h | h | h
    · by_cases hb : b = Memory.unlisted
      · simp [Memory.write, Memory.read, h, hb, below h, Nat.ne_of_gt h]
      · simp [Memory.write, Memory.read, h, hb]
    · subst h
      by_cases hb : b = Memory.unlisted <;> simp [Memory.write, Memory.read, hb, atk]
    · have hn : ¬ a < k := by omega
      have hne : ¬ a = k := by omega
      have hne' : ¬ k = a := by omega
      simp only [Memory.write, if_neg hn, if_neg hne, Memory.read_cons, if_neg hne']
      exact Memory.read_write_self hm.2.2.2 a b

/-- A write leaves every other offset alone. -/
theorem Memory.read_write_ne {a a' : Nat} (h : a' ≠ a) (b : Byte) : ∀ (m : Memory),
    Memory.read (Memory.write m a b) a' = Memory.read m a'
  | [] => by
    by_cases hb : b = Memory.unlisted <;> simp [Memory.write, Memory.read, hb, h.symm]
  | (k, v) :: m => by
    simp only [Memory.write]
    split
    · split
      · rfl
      · rw [Memory.read_cons, if_neg h.symm]
    · split
      · rename_i _ hk
        split
        · rw [Memory.read_cons, if_neg (by omega)]
        · simp only [Memory.read_cons, if_neg h.symm, if_neg (show ¬ k = a' by omega)]
      · simp only [Memory.read_cons, Memory.read_write_ne h b m]

/-- A write inside the array keeps the canonical form. -/
theorem Memory.wfFrom_write {a : Nat} (ha : a < Config.pktMax) (b : Byte) : ∀ {lo : Nat} {m : Memory},
    Memory.wfFrom lo m = true → lo ≤ a → Memory.wfFrom lo (Memory.write m a b) = true
  | lo, [], _, hlo => by
    by_cases hb : b = Memory.unlisted <;> simp [Memory.write, Memory.wfFrom, hb, hlo, ha]
  | lo, (k, v) :: m, hm, hlo => by
    rw [Memory.wfFrom_cons] at hm
    simp only [Memory.write]
    split
    · split
      · rw [Memory.wfFrom_cons]; exact hm
      · rename_i hak hb
        rw [Memory.wfFrom_cons, Memory.wfFrom_cons]
        exact ⟨hlo, ha, hb, by omega, hm.2⟩
    · split
      · rename_i hk
        subst hk
        split
        · exact Memory.wfFrom_mono (by omega) hm.2.2.2
        · rename_i hb
          rw [Memory.wfFrom_cons]
          exact ⟨hlo, ha, hb, hm.2.2.2⟩
      · rw [Memory.wfFrom_cons]
        exact ⟨hm.1, hm.2.1, hm.2.2.1, Memory.wfFrom_write ha b hm.2.2.2 (by omega)⟩

theorem Memory.wf_nil : Memory.wf [] = true := rfl

theorem Memory.wf_write {m : Memory} (hm : Memory.wf m = true) {a : Nat} (ha : a < Config.pktMax) (b : Byte) :
    Memory.wf (Memory.write m a b) = true :=
  Memory.wfFrom_write ha b hm (Nat.zero_le a)

theorem Memory.read_write {m : Memory} (hm : Memory.wf m = true) (a a' : Nat) (b : Byte) :
    Memory.read (Memory.write m a b) a' = if a' = a then b else Memory.read m a' := by
  by_cases h : a' = a
  · rw [if_pos h, h, Memory.read_write_self hm]
  · rw [if_neg h, Memory.read_write_ne h]

theorem Memory.wf_copyFrom {m src : Memory} (hm : Memory.wf m = true) : ∀ {n : Nat}, n ≤ Config.pktMax →
    Memory.wf (Memory.copyFrom m src n) = true
  | 0, _ => hm
  | n + 1, h => Memory.wf_write (Memory.wf_copyFrom hm (by omega)) (by omega) _

/-- Copying n bytes: the first n offsets read as the source's, the others as before. -/
theorem Memory.read_copyFrom {m src : Memory} (hm : Memory.wf m = true) (a : Nat) : ∀ {n : Nat}, n ≤ Config.pktMax →
    Memory.read (Memory.copyFrom m src n) a = if a < n then Memory.read src a else Memory.read m a
  | 0, _ => by simp [Memory.copyFrom]
  | n + 1, h => by
    rw [Memory.copyFrom, Memory.read_write (Memory.wf_copyFrom hm (by omega)), Memory.read_copyFrom hm a (by omega)]
    by_cases h1 : a = n
    · subst h1; simp
    · rw [if_neg h1]
      by_cases h2 : a < n
      · rw [if_pos h2, if_pos (by omega)]
      · rw [if_neg h2, if_neg (by omega)]

/-- Canonical contents that read alike are equal. -/
theorem Memory.ext_of_wfFrom : ∀ {lo : Nat} {m m' : Memory}, Memory.wfFrom lo m = true → Memory.wfFrom lo m' = true →
    (∀ a, Memory.read m a = Memory.read m' a) → m = m'
  | _, [], [], _, _, _ => rfl
  | _, [], (k, v) :: m', _, h', heq => by
    rw [Memory.wfFrom_cons] at h'
    have := heq k
    simp [Memory.read] at this
    exact absurd this.symm h'.2.2.1
  | _, (k, v) :: m, [], h, _, heq => by
    rw [Memory.wfFrom_cons] at h
    have := heq k
    simp [Memory.read] at this
    exact absurd this h.2.2.1
  | lo, (k, v) :: m, (k', v') :: m', h, h', heq => by
    rw [Memory.wfFrom_cons] at h h'
    have hk : k = k' := by
      rcases Nat.lt_trichotomy k k' with hlt | heq' | hgt
      · have h1 := heq k
        rw [Memory.read_cons, if_pos rfl, Memory.read_cons, if_neg (by omega),
          Memory.read_below h'.2.2.2 (by omega)] at h1
        exact absurd h1 h.2.2.1
      · exact heq'
      · have h1 := heq k'
        rw [Memory.read_cons, if_neg (by omega), Memory.read_below h.2.2.2 (by omega), Memory.read_cons,
          if_pos rfl] at h1
        exact absurd h1.symm h'.2.2.1
    subst hk
    have hv : v = v' := by simpa [Memory.read] using heq k
    subst hv
    refine congrArg ((k, v) :: ·) (Memory.ext_of_wfFrom h.2.2.2 h'.2.2.2 fun a => ?_)
    by_cases ha : k = a
    · subst ha
      rw [Memory.read_below h.2.2.2 (by omega), Memory.read_below h'.2.2.2 (by omega)]
    · have h1 := heq a
      rwa [Memory.read_cons, if_neg ha, Memory.read_cons, if_neg ha] at h1

/-- Equal memories are equal data. -/
theorem Memory.ext_of_wf {m m' : Memory} (h : Memory.wf m = true) (h' : Memory.wf m' = true)
    (heq : ∀ a, Memory.read m a = Memory.read m' a) : m = m' :=
  Memory.ext_of_wfFrom h h' heq

@[simp] theorem Memory.length_bytes (m : Memory) (n : Nat) : (Memory.bytes m n).length = min n Config.pktMax := by
  simp [Memory.bytes]

/-- The bytes read out, one by one. -/
theorem Memory.byteAt_bytes {m : Memory} {n j : Nat} (hn : n ≤ Config.pktMax) (hj : j < n) :
    byteAt (Memory.bytes m n) j = Memory.read m j := by
  have : j < min n Config.pktMax := by omega
  simp [byteAt, Memory.bytes, List.getD, this]

theorem Memory.bytes_succ {m : Memory} {n : Nat} (hn : n + 1 ≤ Config.pktMax) :
    Memory.bytes m (n + 1) = Memory.bytes m n ++ [Memory.read m n] := by
  simp [Memory.bytes, Nat.min_eq_left hn, Nat.min_eq_left (Nat.le_of_succ_le hn), List.range_succ]

/-- The first k of the bytes read out. -/
theorem Memory.take_bytes {m : Memory} {n k : Nat} (hk : k ≤ n) :
    (Memory.bytes m n).take k = Memory.bytes m k := by
  simp only [Memory.bytes, ← List.map_take, List.take_range]
  congr 2
  omega

/-- The bytes read out depend on the offsets below n alone. -/
theorem Memory.bytes_congr {m m' : Memory} {n : Nat} (h : ∀ a, a < n → Memory.read m a = Memory.read m' a) :
    Memory.bytes m n = Memory.bytes m' n := by
  refine List.map_congr_left fun a ha => h a ?_
  have := List.mem_range.mp ha
  omega

end Sys2Proof.Machine
end

