-- ==== Sys2Proof/Laws/Framer.lean ====
section
/-! SUPPORT. What a FEED can do, said once: the fields of the state after a byte is stored, the four ways a byte in FRAMING
ends, and what completing a frame writes. -/

namespace Sys2Proof.Machine

/-- The state after the byte `b` is stored at IDX and folded into the running CRC8, before the framer decides (R124). -/
def stored (b : Byte) (s : State) : State :=
  foldCrc8 b (storeByte b s)

/-- SHORT after the byte `b` is stored (R124). -/
def shortAfter (b : Byte) (s : State) : Bool :=
  if s.idx.val = 1 then b.msb else s.short

/-- CRC8R after the byte `b` is stored (R93). -/
def crcAfter (b : Byte) (s : State) : BitVec 8 :=
  if s.idx.val < coff (shortAfter b s) then crc8Step s.crc8r b else s.crc8r

/-- The stored state, field by field. -/
theorem stored_eq (b : Byte) (s : State) :
    stored b s =
      { s with buf := Memory.write s.buf s.idx.val b, short := shortAfter b s,
               dlen := dlenAfter (shortAfter b s) s.idx.val s.dlen b, crc8r := crcAfter b s } := by
  have hs : (if s.idx.val = 1 then isShort b else s.short) = shortAfter b s := by simp [shortAfter]
  simp only [stored, foldCrc8, storeByte, crcAfter, hs]
  by_cases h : s.idx.val < coff (shortAfter b s) <;> simp [h]

/-- IDX is an integer 0..998 (spec/10_state.md R21). -/
theorem idx_lt (s : State) : s.idx.val < 999 := s.idx.isLt

/-- The four ways a byte in FRAMING ends (R124, R126..R128). -/
theorem frameByte_cases (b : Byte) (s : State) :
    (headerBad b (stored b s) = true ∧ frameByte b s = (abandon (stored b s), feedResult .invalid none [])) ∨
    (headerBad b (stored b s) = false ∧ coff (stored b s).short < s.idx.val ∧ s.idx.val + 1 = (stored b s).dlen.toNat ∧
      frameByte b s = (completeFrame (s.idx.val + 1) (stored b s),
        feedResult .ready (some (BitVec.ofNat 16 (s.idx.val + 1))) [.frame (s.idx.val + 1)])) ∨
    (headerBad b (stored b s) = false ∧ ¬ (coff (stored b s).short < s.idx.val ∧ s.idx.val + 1 = (stored b s).dlen.toNat) ∧
      s.idx.val + 1 = Config.frameCap ∧
      frameByte b s = (abandon (stored b s), feedResult .invalid none [])) ∨
    (headerBad b (stored b s) = false ∧ ¬ (coff (stored b s).short < s.idx.val ∧ s.idx.val + 1 = (stored b s).dlen.toNat) ∧
      s.idx.val + 1 < Config.frameCap ∧ ∃ i : Fin Config.frameCap, i.val = s.idx.val + 1 ∧
      frameByte b s = ({ stored b s with idx := i }, feedResult .incomplete none [])) := by
  have hi := s.idx.isLt
  unfold frameByte
  simp only [show foldCrc8 b (storeByte b s) = stored b s from rfl]
  cases hb : headerBad b (stored b s)
  · by_cases hc : coff (stored b s).short < s.idx.val ∧ s.idx.val + 1 = (stored b s).dlen.toNat
    · exact .inr (.inl ⟨rfl, hc.1, hc.2, by rw [if_neg (by decide), if_pos hc]⟩)
    · by_cases hcap : s.idx.val + 1 = Config.frameCap
      · exact .inr (.inr (.inl ⟨rfl, hc, hcap, by
          rw [if_neg (by decide), if_neg hc, if_pos hcap]⟩))
      · have hlt : s.idx.val + 1 < Config.frameCap := by omega
        refine .inr (.inr (.inr ⟨rfl, hc, hlt, Fin.ofNat Config.frameCap (s.idx.val + 1), ?_, ?_⟩))
        · simp [Fin.ofNat, Nat.mod_eq_of_lt hlt]
        · rw [if_neg (by decide), if_neg hc, if_neg hcap]
  · exact .inl ⟨rfl, by simp⟩

/-- A byte past the variant byte leaves SHORT. -/
theorem shortAfter_of_ne {b : Byte} {s : State} (h : s.idx.val ≠ 1) : shortAfter b s = s.short := by
  simp [shortAfter, h]

/-- A byte at or past the header CRC8 offset leaves CRC8R. -/
theorem crcAfter_of_le {b : Byte} {s : State} (h : coff (shortAfter b s) ≤ s.idx.val) : crcAfter b s = s.crc8r := by
  simp [crcAfter, Nat.not_lt.mpr h]

/-- A byte past the length field leaves DLEN. -/
theorem dlenAfter_of_gt {short : Bool} {i : Nat} (h : coff short ≤ i) (d : BitVec 16) (b : Byte) :
    dlenAfter short i d b = d := by
  cases short
  · have h4 : i ≠ 4 := by simp [coff] at h; omega
    have h5 : i ≠ 5 := by simp [coff] at h; omega
    simp [dlenAfter, h4, h5]
  · have h2 : i ≠ 2 := by simp [coff] at h; omega
    simp [dlenAfter, h2]

theorem coff_pos (short : Bool) : 3 ≤ coff short := by cases short <;> decide

theorem coff_le (short : Bool) : coff short ≤ 6 := by cases short <;> decide

/-- A FEED changes the framer and the stage alone. -/
theorem feedByte_frame (b : Byte) (s : State) :
    (feedByte b s).1 = { s with
      fs := (feedByte b s).1.fs, idx := (feedByte b s).1.idx, buf := (feedByte b s).1.buf,
      crc8r := (feedByte b s).1.crc8r, short := (feedByte b s).1.short, dlen := (feedByte b s).1.dlen,
      pbuf := (feedByte b s).1.pbuf, plen := (feedByte b s).1.plen, prdy := (feedByte b s).1.prdy,
      ovr := (feedByte b s).1.ovr } := by
  unfold feedByte
  cases s.fs with
  | seeking => simp only [seekByte]; split <;> rfl
  | framing =>
    rcases frameByte_cases b s with ⟨_, h⟩ | ⟨_, _, _, h⟩ | ⟨_, _, _, h⟩ | ⟨_, _, _, i, _, h⟩ <;>
      simp only [h, stored_eq, abandon, completeFrame]

end Sys2Proof.Machine
end

