-- ==== Sys2Proof/Laws/PerInstr.lean ====
section
/-! SUPPORT. Per instruction: its encoding carries the fixed bits of its row of spec/opcode_table.json. For a command operation
these are the row's match under its mask; for a packet kind, the header byte and the discriminator of its window, and the CRC16
that its row names as a precondition. -/

open Sys2Proof Sys2Proof.Machine

/-- The instruction is a command word that the row (`bits` under `mask`) admits. -/
def Sys2Proof.Laws.TableRow.IsCommand (bits mask : Word) (i : Instr) : Prop :=
  ∃ w, encode i = .cmd w ∧ w &&& mask = bits

/-- The instruction is a frame of at least 7 bytes with a good CRC16, header 0xC5 and command byte `cmd`. -/
def Sys2Proof.Laws.TableRow.IsShort (cmd : Byte) (i : Instr) : Prop :=
  ∃ b, encode i = .wire b ∧ 7 ≤ b.length ∧ crc16Ok b = true ∧ byteAt b 1 = 0xC5 ∧ byteAt b 4 = cmd

/-- The instruction is a frame of at least 15 bytes with a good CRC16, header 0x05 and little-endian type `type`. -/
def Sys2Proof.Laws.TableRow.IsLong (type : BitVec 16) (i : Instr) : Prop :=
  ∃ b, encode i = .wire b ∧ 15 ≤ b.length ∧ crc16Ok b = true ∧ byteAt b 1 = 0x05 ∧ rd16 b 11 = type

open Sys2Proof.Laws

/-- The instruction's encoding carries its row's fixed bits. -/
def Sys2Proof.Laws.TableRow.Statement : Instr → Prop
  | .nop => IsCommand 0x00000000 0xFFFFFFFF .nop
  | i@(.feed _) => IsCommand 0x00000001 0xFF00FFFF i
  | .frmReset => IsCommand 0x00000002 0xFFFFFFFF .frmReset
  | .rdpkt => IsCommand 0x00000003 0xFFFFFFFF .rdpkt
  | .rdfrm => IsCommand 0x00000004 0xFFFFFFFF .rdfrm
  | .crc8Calc => IsCommand 0x00000008 0xFFFFFFFF .crc8Calc
  | .crc16Calc => IsCommand 0x00000009 0xFFFFFFFF .crc16Calc
  | .identify => IsCommand 0x0000000A 0xFFFFFFFF .identify
  | .parseLong => IsCommand 0x0000000B 0xFFFFFFFF .parseLong
  | .buildWithCrc => IsCommand 0x0000000C 0xFFFFFFFF .buildWithCrc
  | .buildLong => IsCommand 0x0000000D 0xFFFFFFFF .buildLong
  | i@(.sample _) => IsCommand 0x00000010 0xFFFFF8FF i
  | i@(.run _) => IsCommand 0x00000011 0xFFFFF8FF i
  | .tick => IsCommand 0x00000012 0xFFFFFFFF .tick
  | i@(.pidClear _ _) => IsCommand 0x00000013 0xFFFFF0FF i
  | i@(.pidStep _ _) => IsCommand 0x00000014 0xFFFFF0FF i
  | i@(.pwmShape _) => IsCommand 0x00000015 0xFFFFF8FF i
  | i@(.setMotion _ _) => IsCommand 0x00000016 0xFFF8F8FF i
  | i@(.setVelocity _) => IsCommand 0x00000017 0xFFFFF8FF i
  | i@(.wrMeters _) => IsCommand 0x00000018 0xFFFFF8FF i
  | i@(.wrColor _) => IsCommand 0x00000019 0xFFFFF8FF i
  | i@(.cfgCh _ _) => IsCommand 0x0000001A 0xFFFEF8FF i
  | i@(.cfgDev _) => IsCommand 0x0000001B 0xFFFEFFFF i
  | i@(.rdCh _) => IsCommand 0x0000001C 0xFFFFF8FF i
  | .kindMotionShort f => IsShort 0x03 (.kindMotionShort f)
  | .kindMotionLong f => IsShort 0x04 (.kindMotionLong f)
  | .kindOnlineDetect f => IsShort 0x05 (.kindOnlineDetect f)
  | .kindReqX6 f => IsShort 0x06 (.kindReqX6 f)
  | .kindNfcDetect f => IsShort 0x07 (.kindNfcDetect f)
  | .kindSetFilamentInfo f => IsShort 0x08 (.kindSetFilamentInfo f)
  | .kindHeartbeat f => IsShort 0x20 (.kindHeartbeat f)
  | .kindShortOther cmd f => IsShort cmd (.kindShortOther cmd f)
  | .kindMcOnline f => IsLong 0x021A (.kindMcOnline f)
  | .kindReadFilamentInfo f => IsLong 0x0211 (.kindReadFilamentInfo f)
  | .kindSetFilamentInfoV2 f => IsLong 0x0218 (.kindSetFilamentInfoV2 f)
  | .kindVersion f => IsLong 0x0103 (.kindVersion f)
  | .kindSerialNumber f => IsLong 0x0402 (.kindSerialNumber f)
  | .kindLongOther type f => IsLong type (.kindLongOther type f)
  | .kindNone b => WellFormed (.kindNone b) = true → encode (.kindNone b) = .wire b ∧ Machine.crc16Ok b = false
  | .kindUnknown b =>
    WellFormed (.kindUnknown b) = true →
      encode (.kindUnknown b) = .wire b ∧ Machine.crc16Ok b = true ∧ noDiscriminator b = true

/-- The frame of a short-family instruction. -/
theorem Sys2Proof.Laws.TableRow.isShort_encodeShort {i : Instr} (cmd : Byte) (f : ShortFrame)
    (h : encode i = encodeShort cmd f) : TableRow.IsShort cmd i := by
  refine ⟨_, h, by simp [ShortFrame.body], crc16Ok_withCrc16 _, ?_, ?_⟩ <;>
    rw [byteAt_withCrc16 (by simp [ShortFrame.body])] <;> rfl

/-- The frame of a long-family instruction. -/
theorem Sys2Proof.Laws.TableRow.isLong_encodeLong {i : Instr} (type : BitVec 16) (f : LongFrame)
    (h : encode i = encodeLong type f) : TableRow.IsLong type i := by
  refine ⟨_, h, by simp [LongFrame.body], crc16Ok_withCrc16 _, ?_, ?_⟩
  · rw [byteAt_withCrc16 (by simp [LongFrame.body])]; rfl
  · have h11 : byteAt (withCrc16 (f.body type)) 11 = lo8 type := by
      rw [byteAt_withCrc16 (by simp [LongFrame.body])]; rfl
    have h12 : byteAt (withCrc16 (f.body type)) 12 = hi8 type := by
      rw [byteAt_withCrc16 (by simp [LongFrame.body])]; rfl
    rw [rd16, h11, h12, field16_lo8_hi8]

open Sys2Proof.Laws.TableRow

theorem Sys2Proof.Laws.TableRow.nop : TableRow.Statement .nop :=
  ⟨_, rfl, by decide⟩

theorem Sys2Proof.Laws.TableRow.feed (b : Byte) : TableRow.Statement (.feed b) :=
  ⟨_, rfl, by revert b; decide⟩

theorem Sys2Proof.Laws.TableRow.frmReset : TableRow.Statement .frmReset :=
  ⟨_, rfl, by decide⟩

theorem Sys2Proof.Laws.TableRow.rdpkt : TableRow.Statement .rdpkt :=
  ⟨_, rfl, by decide⟩

theorem Sys2Proof.Laws.TableRow.rdfrm : TableRow.Statement .rdfrm :=
  ⟨_, rfl, by decide⟩

theorem Sys2Proof.Laws.TableRow.crc8Calc : TableRow.Statement .crc8Calc :=
  ⟨_, rfl, by decide⟩

theorem Sys2Proof.Laws.TableRow.crc16Calc : TableRow.Statement .crc16Calc :=
  ⟨_, rfl, by decide⟩

theorem Sys2Proof.Laws.TableRow.identify : TableRow.Statement .identify :=
  ⟨_, rfl, by decide⟩

theorem Sys2Proof.Laws.TableRow.parseLong : TableRow.Statement .parseLong :=
  ⟨_, rfl, by decide⟩

theorem Sys2Proof.Laws.TableRow.buildWithCrc : TableRow.Statement .buildWithCrc :=
  ⟨_, rfl, by decide⟩

theorem Sys2Proof.Laws.TableRow.buildLong : TableRow.Statement .buildLong :=
  ⟨_, rfl, by decide⟩

theorem Sys2Proof.Laws.TableRow.sample (ch : BitVec 3) : TableRow.Statement (.sample ch) :=
  ⟨_, rfl, by revert ch; decide⟩

theorem Sys2Proof.Laws.TableRow.run (ch : BitVec 3) : TableRow.Statement (.run ch) :=
  ⟨_, rfl, by revert ch; decide⟩

theorem Sys2Proof.Laws.TableRow.tick : TableRow.Statement .tick :=
  ⟨_, rfl, by decide⟩

theorem Sys2Proof.Laws.TableRow.pidClear (ch : BitVec 3) (sel : Sel) : TableRow.Statement (.pidClear ch sel) :=
  ⟨_, rfl, by cases sel <;> revert ch <;> decide⟩

theorem Sys2Proof.Laws.TableRow.pidStep (ch : BitVec 3) (sel : Sel) : TableRow.Statement (.pidStep ch sel) :=
  ⟨_, rfl, by cases sel <;> revert ch <;> decide⟩

theorem Sys2Proof.Laws.TableRow.pwmShape (ch : BitVec 3) : TableRow.Statement (.pwmShape ch) :=
  ⟨_, rfl, by revert ch; decide⟩

theorem Sys2Proof.Laws.TableRow.setMotion (ch : BitVec 3) (mode : BitVec 3) : TableRow.Statement (.setMotion ch mode) :=
  ⟨_, rfl, by revert ch mode; decide⟩

theorem Sys2Proof.Laws.TableRow.setVelocity (ch : BitVec 3) : TableRow.Statement (.setVelocity ch) :=
  ⟨_, rfl, by revert ch; decide⟩

theorem Sys2Proof.Laws.TableRow.wrMeters (ch : BitVec 3) : TableRow.Statement (.wrMeters ch) :=
  ⟨_, rfl, by revert ch; decide⟩

theorem Sys2Proof.Laws.TableRow.wrColor (ch : BitVec 3) : TableRow.Statement (.wrColor ch) :=
  ⟨_, rfl, by revert ch; decide⟩

theorem Sys2Proof.Laws.TableRow.cfgCh (ch : BitVec 3) (dir : Bool) : TableRow.Statement (.cfgCh ch dir) :=
  ⟨_, rfl, by revert ch dir; decide⟩

theorem Sys2Proof.Laws.TableRow.cfgDev (lite : Bool) : TableRow.Statement (.cfgDev lite) :=
  ⟨_, rfl, by revert lite; decide⟩

theorem Sys2Proof.Laws.TableRow.rdCh (ch : BitVec 3) : TableRow.Statement (.rdCh ch) :=
  ⟨_, rfl, by revert ch; decide⟩

theorem Sys2Proof.Laws.TableRow.kindMotionShort (f : ShortFrame) : TableRow.Statement (.kindMotionShort f) :=
  isShort_encodeShort _ f rfl

theorem Sys2Proof.Laws.TableRow.kindMotionLong (f : ShortFrame) : TableRow.Statement (.kindMotionLong f) :=
  isShort_encodeShort _ f rfl

theorem Sys2Proof.Laws.TableRow.kindOnlineDetect (f : ShortFrame) : TableRow.Statement (.kindOnlineDetect f) :=
  isShort_encodeShort _ f rfl

theorem Sys2Proof.Laws.TableRow.kindReqX6 (f : ShortFrame) : TableRow.Statement (.kindReqX6 f) :=
  isShort_encodeShort _ f rfl

theorem Sys2Proof.Laws.TableRow.kindNfcDetect (f : ShortFrame) : TableRow.Statement (.kindNfcDetect f) :=
  isShort_encodeShort _ f rfl

theorem Sys2Proof.Laws.TableRow.kindSetFilamentInfo (f : ShortFrame) : TableRow.Statement (.kindSetFilamentInfo f) :=
  isShort_encodeShort _ f rfl

theorem Sys2Proof.Laws.TableRow.kindHeartbeat (f : ShortFrame) : TableRow.Statement (.kindHeartbeat f) :=
  isShort_encodeShort _ f rfl

theorem Sys2Proof.Laws.TableRow.kindShortOther (cmd : Byte) (f : ShortFrame) :
    TableRow.Statement (.kindShortOther cmd f) :=
  isShort_encodeShort cmd f rfl

theorem Sys2Proof.Laws.TableRow.kindMcOnline (f : LongFrame) : TableRow.Statement (.kindMcOnline f) :=
  isLong_encodeLong _ f rfl

theorem Sys2Proof.Laws.TableRow.kindReadFilamentInfo (f : LongFrame) : TableRow.Statement (.kindReadFilamentInfo f) :=
  isLong_encodeLong _ f rfl

theorem Sys2Proof.Laws.TableRow.kindSetFilamentInfoV2 (f : LongFrame) : TableRow.Statement (.kindSetFilamentInfoV2 f) :=
  isLong_encodeLong _ f rfl

theorem Sys2Proof.Laws.TableRow.kindVersion (f : LongFrame) : TableRow.Statement (.kindVersion f) :=
  isLong_encodeLong _ f rfl

theorem Sys2Proof.Laws.TableRow.kindSerialNumber (f : LongFrame) : TableRow.Statement (.kindSerialNumber f) :=
  isLong_encodeLong _ f rfl

theorem Sys2Proof.Laws.TableRow.kindLongOther (type : BitVec 16) (f : LongFrame) :
    TableRow.Statement (.kindLongOther type f) :=
  isLong_encodeLong type f rfl

theorem Sys2Proof.Laws.TableRow.kindNone (b : List Byte) : TableRow.Statement (.kindNone b) := by
  intro h
  simp only [WellFormed, Bool.and_eq_true, Bool.not_eq_true'] at h
  exact ⟨rfl, h.2⟩

theorem Sys2Proof.Laws.TableRow.kindUnknown (b : List Byte) : TableRow.Statement (.kindUnknown b) := by
  intro h
  simp only [WellFormed, Bool.and_eq_true] at h
  exact ⟨rfl, h.1.2, h.2⟩
end

