-- ==== Sys2Proof/Machine/Assembler.lean ====
section
/-! DEFINITION. The assembler forms and the pseudo-operations of spec/30_encoding.md R100 and R101, as data: a form with its
operands becomes the requests it stands for (notes/assumptions/14.md). -/

namespace Sys2Proof.Machine

/-- A decimal literal ±num / 10^places; as an f32 operand it means fl of that number (R100). -/
structure Decimal where
  neg : Bool
  num : Nat
  places : Nat
deriving DecidableEq, Repr

/-- The f32 a literal means. -/
def Decimal.toF32 (d : Decimal) : F32 :=
  F32.ofRatio d.neg d.num (10 ^ d.places)

/-- The forms of R100, then the three pseudo-operations of R101. -/
inductive Asm where
  | nop
  | feed (b : Byte)
  | frmReset
  | rdpkt
  | rdfrm
  | crc8Calc (b : List Byte)
  | crc16Calc (b : List Byte)
  | identify (b : List Byte)
  | parseLong (b : List Byte)
  | buildWithCrc (b : List Byte)
  | buildLong (hdr : Vector Byte 11) (pay : List Byte)
  | sample (ch : Fin Config.nch)
  | run (ch : Fin Config.nch)
  | tick
  | pidClear (ch : Fin Config.nch) (sel : Sel)
  | pidStep (ch : Fin Config.nch) (sel : Sel) (e dt : Decimal)
  | pwmShape (ch : Fin Config.nch) (x : Decimal)
  | setMotion (ch : Fin Config.nch) (mode : Motion)
  | setVelocity (ch : Fin Config.nch) (tv td : Decimal)
  | wrMeters (ch : Fin Config.nch) (m : Decimal)
  | wrColor (ch : Fin Config.nch) (color : Rgba)
  | cfgCh (ch : Fin Config.nch) (minus : Bool) (pwmZero : Decimal)
  | cfgDev (lite : Bool)
  | rdCh (ch : Fin Config.nch)
  | feeds (b : List Byte)
  | move (ch : Fin Config.nch) (dist speed : Decimal)
  | sendShort (b : List Byte)
deriving DecidableEq, Repr

/-- CH of a channel name. -/
def chCode (c : Fin Config.nch) : BitVec 3 :=
  BitVec.ofNat 3 c.val

/-- The command word of an operation; a wire kind has none and gives NOP's. -/
def wordOf (i : Instr) : Word :=
  match encode i with
  | .cmd w => w
  | .wire _ => 0

/-- An operand bundle with A and B only. -/
def bundleAB (a b : F32) : Operands :=
  { Operands.zeros with a := a.bits, b := b.bits }

/-- An operand bundle with BUFIN only. -/
def bundleBuf (b : List Byte) : Operands :=
  { Operands.zeros with bufin := b }

/-- WR_COLOR's operand A, {Alpha, B, G, R} (R84). -/
def colorWord (c : Rgba) : Word :=
  c.a ++ (c.b ++ (c.g ++ c.r))

/-- The operation and operand bundle of one request. -/
def asmOp (i : Instr) (o : Operands) : List (Instr × Operands) :=
  [(i, o)]

/-- The operations a form stands for, in order, each with its operand bundle (R100, R101). -/
def Asm.ops : Asm → List (Instr × Operands)
  | .nop => asmOp .nop Operands.zeros
  | .feed b => asmOp (.feed b) Operands.zeros
  | .frmReset => asmOp .frmReset Operands.zeros
  | .rdpkt => asmOp .rdpkt Operands.zeros
  | .rdfrm => asmOp .rdfrm Operands.zeros
  | .crc8Calc b => asmOp .crc8Calc (bundleBuf b)
  | .crc16Calc b => asmOp .crc16Calc (bundleBuf b)
  | .identify b => asmOp .identify (bundleBuf b)
  | .parseLong b => asmOp .parseLong (bundleBuf b)
  | .buildWithCrc b => asmOp .buildWithCrc (bundleBuf b)
  | .buildLong hdr pay => asmOp .buildLong { Operands.zeros with hdr := hdr, pay := pay }
  | .sample c => asmOp (.sample (chCode c)) Operands.zeros
  | .run c => asmOp (.run (chCode c)) Operands.zeros
  | .tick => asmOp .tick Operands.zeros
  | .pidClear c sel => asmOp (.pidClear (chCode c) sel) Operands.zeros
  | .pidStep c sel e dt => asmOp (.pidStep (chCode c) sel) (bundleAB e.toF32 dt.toF32)
  | .pwmShape c x => asmOp (.pwmShape (chCode c)) (bundleAB x.toF32 Config.zero)
  | .setMotion c m => asmOp (.setMotion (chCode c) m.code) Operands.zeros
  | .setVelocity c tv td => asmOp (.setVelocity (chCode c)) (bundleAB tv.toF32 td.toF32)
  | .wrMeters c m => asmOp (.wrMeters (chCode c)) (bundleAB m.toF32 Config.zero)
  | .wrColor c col => asmOp (.wrColor (chCode c)) { Operands.zeros with a := colorWord col }
  | .cfgCh c minus pz => asmOp (.cfgCh (chCode c) minus) (bundleAB pz.toF32 Config.zero)
  | .cfgDev lite => asmOp (.cfgDev lite) Operands.zeros
  | .rdCh c => asmOp (.rdCh (chCode c)) Operands.zeros
  | .feeds bs => bs.map fun b => (.feed b, Operands.zeros)
  | .move c dist speed =>
    asmOp (.setVelocity (chCode c))
      (bundleAB (Config.params.num.mul (F32.sign dist.toF32) (F32.abs speed.toF32)) (F32.abs dist.toF32))
  | .sendShort b => asmOp .buildWithCrc (bundleBuf b)

/-- The requests a form stands for, with the given values on the input ports. -/
def Asm.requests (a : Asm) (sensors : Vector Sensors Config.nch) (now : BitVec 64) : List Request :=
  a.ops.map fun x => { word := wordOf x.1, operands := x.2, sensors := sensors, now := now }

end Sys2Proof.Machine
end

