-- ==== Sys2Proof/Tests/Slice0.lean ====
section
/-! SUPPORT. The model's own tests: ill-formed terms are refused, every constructor is decoded from a word or frame written out
from the spec's encoding, the vectors of spec/95_test_vectors.md (each test names its vector), and a concrete state and operands
that meet the hypotheses of each statement. -/

namespace Sys2Proof.Tests

-- One test after the other: a hundred kernel evaluations at once need more threads than the checker's memory allows.
set_option Elab.async false

open Sys2Proof Sys2Proof.Machine

/-! ## Helpers -/

/-- The next state of an outcome. -/
def next (o : Host.Outcome State Fault Refusal) : Option State :=
  match o with
  | .next s => some s
  | .fault _ => none
  | .refused _ => none

/-- The result of running an operation. -/
def result (i : Instr) (s : State) : Option Result :=
  (next (exec i s)).map State.res

/-- Reset with an operand bundle on the port. -/
def given (o : Operands) : State :=
  { State.reset with cmd := Request.ofWord 0 o }

/-- Reset with the operands A and B. -/
def givenAB (a b : Word) : State :=
  given { Operands.zeros with a := a, b := b }

/-- Reset with the operand buffer BUFIN. -/
def givenBuf (b : List Byte) : State :=
  given { Operands.zeros with bufin := b }

/-- Reset with channel 0 replaced. -/
def withChan (k : Channel) : State :=
  State.reset.setChan 0 k

/-- Reset after feeding the bytes. -/
def fed (b : List Byte) : State :=
  b.foldl (fun s x => (feedByte x s).1) State.reset

/-- The frame status of each byte fed. -/
def trace : List Byte → State → List FrameStatus
  | [], _ => []
  | b :: rest, s => ((feedByte b s).2.fstat.getD .invalid) :: trace rest (feedByte b s).1

/-- A number of a test, as fl of num / den. -/
def num (n : Nat) (den : Nat := 1) : F32 :=
  F32.ofRatio false n den

/-- A negative number of a test. -/
def neg (n : Nat) (den : Nat := 1) : F32 :=
  F32.ofRatio true n den

/-- NUM at its default and every other parameter 0.0, as 95_test_vectors.md has those a vector does not name. -/
def noParams : Config.Params :=
  { speedGains := ⟨Config.zero, Config.zero, Config.zero⟩, pressureGains := ⟨Config.zero, Config.zero, Config.zero⟩,
    vSend := Config.zero, vSendLite := Config.zero, vSendCeil := Config.zero, vSlow := Config.zero, vPull := Config.zero,
    mmPerTick := Config.zero, assistMs := 0, assistPwm := Config.zero, num := F32.binary32 }

/-- The heartbeat of L1-1, first reading. -/
def heartbeat : List Byte := [0x3D, 0xC5, 0x08, 0x2C, 0x20, 0x00, 0x32, 0xA7]

/-- The VERSION frame ID-12. -/
def version : List Byte :=
  [0x3D, 0x05, 0x01, 0x00, 0x0F, 0x00, 0xCE, 0x00, 0x07, 0x00, 0x12, 0x03, 0x01, 0x42, 0xDF]

/-- The free bytes of the heartbeat. -/
def shortBytes : ShortFrame := ⟨0x3D, 0x08, 0x2C, [0x00]⟩

/-- The free bytes of the frames ID-11..ID-14. -/
def longBytes : LongFrame := ⟨0x3D, 1, 15, 0xCE, 0x0700, 0x1200, []⟩

/-- The sub-header of BL-1. -/
def header : Vector Byte 11 := #v[0x01, 0x00, 0x00, 0x00, 0x00, 0x00, 0x07, 0x00, 0x12, 0x03, 0x01]

/-! ## WellFormed refuses what no encoding stands for -/

theorem test_illformed_short_too_long : WellFormed (.kindHeartbeat ⟨0x3D, 0, 0, List.replicate 994 0⟩) = false := by decide +kernel
theorem test_wellformed_short_longest : WellFormed (.kindHeartbeat ⟨0x3D, 0, 0, List.replicate 993 0⟩) = true := by decide +kernel
theorem test_illformed_long_too_long :
    WellFormed (.kindVersion ⟨0x3D, 0, 0, 0, 0, 0, List.replicate 986 0⟩) = false := by decide +kernel
theorem test_illformed_short_other : WellFormed (.kindShortOther 0x20 shortBytes) = false := by decide +kernel
theorem test_illformed_long_other : WellFormed (.kindLongOther 0x021A longBytes) = false := by decide +kernel
theorem test_illformed_none : WellFormed (.kindNone [0x3D, 0x91]) = false := by decide +kernel
theorem test_illformed_none_too_long : WellFormed (.kindNone (List.replicate 1001 0)) = false := by decide +kernel
theorem test_illformed_unknown_bad_crc : WellFormed (.kindUnknown [0x3D, 0x92]) = false := by decide +kernel
theorem test_illformed_unknown_known_kind : WellFormed (.kindUnknown heartbeat) = false := by decide +kernel

/-! ## Decoding: every constructor, from a word of R84's fields or a frame of 95_test_vectors.md 2.3 -/

theorem test_decode_framer :
    decode (.cmd 0x00000000) = .ok .nop ∧ decode (.cmd 0x003D0001) = .ok (.feed 0x3D) ∧
    decode (.cmd 0x00000002) = .ok .frmReset ∧ decode (.cmd 0x00000003) = .ok .rdpkt ∧
    decode (.cmd 0x00000004) = .ok .rdfrm ∧ decode (.cmd 0x00000008) = .ok .crc8Calc ∧
    decode (.cmd 0x00000009) = .ok .crc16Calc := by decide +kernel

theorem test_decode_codec :
    decode (.cmd 0x0000000A) = .ok .identify ∧ decode (.cmd 0x0000000B) = .ok .parseLong ∧
    decode (.cmd 0x0000000C) = .ok .buildWithCrc ∧ decode (.cmd 0x0000000D) = .ok .buildLong := by decide +kernel

theorem test_decode_channels :
    decode (.cmd 0x00000410) = .ok (.sample 4) ∧ decode (.cmd 0x00000311) = .ok (.run 3) ∧
    decode (.cmd 0x00000012) = .ok .tick ∧ decode (.cmd 0x00000813) = .ok (.pidClear 0 .pressure) ∧
    decode (.cmd 0x00000514) = .ok (.pidStep 5 .speed) ∧ decode (.cmd 0x00000215) = .ok (.pwmShape 2) := by decide +kernel

theorem test_decode_writes :
    decode (.cmd 0x00010216) = .ok (.setMotion 2 1) ∧ decode (.cmd 0x00000117) = .ok (.setVelocity 1) ∧
    decode (.cmd 0x00000118) = .ok (.wrMeters 1) ∧ decode (.cmd 0x00000019) = .ok (.wrColor 0) ∧
    decode (.cmd 0x0001011A) = .ok (.cfgCh 1 true) ∧ decode (.cmd 0x0001001B) = .ok (.cfgDev true) ∧
    decode (.cmd 0x0000071C) = .ok (.rdCh 7) := by decide +kernel

theorem test_decode_rejects :
    decode (.cmd 0x00000005) = .error .opcode ∧ decode (.cmd 0x000000FF) = .error .opcode ∧
    decode (.cmd 0x00001000) = .error .reserved ∧ decode (.cmd 0x00000100) = .error .reserved ∧
    decode (.cmd 0x013D0001) = .error .reserved ∧ decode (.cmd 0x00000815) = .error .reserved ∧
    decode (.cmd 0x00001410) = .error .reserved ∧ decode (.cmd 0x00080016) = .error .reserved ∧
    decode (.cmd 0x0002001B) = .error .reserved ∧ decode (.wire (List.replicate 1001 0)) = .error .length := by decide +kernel

theorem test_decode_short_kinds :
    decode (.wire [0x3D, 0xC5, 0x08, 0x2C, 0x03, 0x00, 0x87, 0xF4]) = .ok (.kindMotionShort shortBytes) ∧
    decode (.wire [0x3D, 0xC5, 0x08, 0x2C, 0x04, 0x00, 0x10, 0x6D]) = .ok (.kindMotionLong shortBytes) ∧
    decode (.wire [0x3D, 0xC5, 0x08, 0x2C, 0x05, 0x00, 0x21, 0x5E]) = .ok (.kindOnlineDetect shortBytes) ∧
    decode (.wire [0x3D, 0xC5, 0x07, 0x72, 0x06, 0xAC, 0x30]) = .ok (.kindReqX6 ⟨0x3D, 0x07, 0x72, []⟩) ∧
    decode (.wire [0x3D, 0xC5, 0x07, 0x72, 0x07, 0x8D, 0x20]) = .ok (.kindNfcDetect ⟨0x3D, 0x07, 0x72, []⟩) ∧
    decode (.wire [0x3D, 0xC5, 0x07, 0x72, 0x08, 0x62, 0xD1]) = .ok (.kindSetFilamentInfo ⟨0x3D, 0x07, 0x72, []⟩) ∧
    decode (.wire heartbeat) = .ok (.kindHeartbeat shortBytes) ∧
    decode (.wire [0x3D, 0xC5, 0x07, 0x72, 0x21, 0x29, 0x64]) = .ok (.kindShortOther 0x21 ⟨0x3D, 0x07, 0x72, []⟩) := by
  decide +kernel

theorem test_decode_long_kinds :
    decode (.wire [0x3D, 0x05, 0x01, 0x00, 0x10, 0x00, 0x5D, 0x00, 0x07, 0x00, 0x12, 0x1A, 0x02, 0x01, 0x75, 0x2A]) =
      .ok (.kindMcOnline ⟨0x3D, 1, 16, 0x5D, 0x0700, 0x1200, [0x01]⟩) ∧
    decode (.wire [0x3D, 0x05, 0x01, 0x00, 0x11, 0x00, 0xC1, 0x00, 0x07, 0x00, 0x12, 0x11, 0x02, 0x00, 0x01, 0x32, 0x4C]) =
      .ok (.kindReadFilamentInfo ⟨0x3D, 1, 17, 0xC1, 0x0700, 0x1200, [0x00, 0x01]⟩) ∧
    decode (.wire [0x3D, 0x05, 0x01, 0x00, 0x0F, 0x00, 0xCE, 0x00, 0x07, 0x00, 0x12, 0x18, 0x02, 0xA8, 0x30]) =
      .ok (.kindSetFilamentInfoV2 longBytes) ∧
    decode (.wire version) = .ok (.kindVersion longBytes) ∧
    decode (.wire [0x3D, 0x05, 0x01, 0x00, 0x0F, 0x00, 0xCE, 0x00, 0x07, 0x00, 0x12, 0x02, 0x04, 0xD6, 0xBC]) =
      .ok (.kindSerialNumber longBytes) ∧
    decode (.wire [0x3D, 0x05, 0x01, 0x00, 0x0F, 0x00, 0xCE, 0x00, 0x07, 0x00, 0x12, 0x99, 0x09, 0x6A, 0xA9]) =
      .ok (.kindLongOther 0x0999 longBytes) := by decide +kernel

/-- ID-15, ID-18, ID-20, ID-21 and ID-23. -/
theorem test_decode_none_unknown :
    decode (.wire [0x3D, 0xC5, 0x08, 0x2C, 0x20, 0x01, 0x32, 0xA7]) =
      .ok (.kindNone [0x3D, 0xC5, 0x08, 0x2C, 0x20, 0x01, 0x32, 0xA7]) ∧
    decode (.wire []) = .ok (.kindNone []) ∧ decode (.wire [0x3D, 0x91]) = .ok (.kindUnknown [0x3D, 0x91]) ∧
    decode (.wire [0x3D, 0xC5, 0x06, 0x4B, 0xBE, 0xBC]) = .ok (.kindUnknown [0x3D, 0xC5, 0x06, 0x4B, 0xBE, 0xBC]) ∧
    decode (.wire [0x3D, 0x05, 0x00, 0x00, 0x0E, 0x00, 0x1C, 0x01, 0x02, 0x03, 0x04, 0x05, 0xCA, 0x82]) =
      .ok (.kindUnknown [0x3D, 0x05, 0x00, 0x00, 0x0E, 0x00, 0x1C, 0x01, 0x02, 0x03, 0x04, 0x05, 0xCA, 0x82]) := by decide +kernel

/-- The rows of the table as the host numbers them: a command row, a short and a long window. -/
theorem test_table_words :
    decodeTableWord 32 0x0001011A = some (.cfgCh 1 true) ∧
    decodeTableWord 40 0x3DC5000020 = some (.kindHeartbeat ⟨0x3D, 0, 0, []⟩) ∧
    decodeTableWord 104 0x3D050000000000000000000301 = some (.kindVersion ⟨0x3D, 0, 0, 0, 0, 0, []⟩) := by decide +kernel

/-- The request that stands for a table row runs as the first instruction after reset. -/
theorem test_first_step_runs_the_row :
    (next (step (State.reset.withFetchWord 32 0x0001001B))).map State.lite = some true ∧
    (next (step (State.reset.withFetchWord 40 0x3DC5000020))).map (fun t => t.res.kind) = some (some .heartbeat) := by
  decide +kernel

/-! ## The constants of R9 are the nearest binary32 of their decimals -/

theorem test_literals :
    num 33 10 = Config.vMax ∧ num 185 100 = Config.vTaut ∧ num 145 100 = Config.vSlack ∧ num 165 100 = Config.vSet ∧
    num 170 100 = Config.vBandHi ∧ num 155 100 = Config.vRelease ∧ num 1000 = Config.iLim ∧ num 1000 = Config.outLim ∧
    num 10 = Config.deadband ∧ num 3000 = Config.metersMax ∧ num 1 = Config.one ∧ neg 1 = Config.minusOne := by
  decide +kernel

/-- The integer parameters of R9, and NUM's default (I14). -/
theorem test_parameters :
    Config.nch = 4 ∧ Config.pktMax = 1000 ∧ Config.frameCap = 999 ∧ Config.marker = 0x3D ∧ Config.shortBit = 0x80 ∧
    Config.encBits = 12 ∧ Config.encMod = 4096 ∧ Config.payMax = 984 ∧ Config.params.num = F32.binary32 :=
  ⟨rfl, rfl, rfl, rfl, rfl, rfl, rfl, rfl, rfl⟩

/-- The thresholds R196 writes. -/
theorem test_wrap12 : wrap12 2047 = 2047 ∧ wrap12 2048 = -2048 ∧ wrap12 (-2048) = -2048 ∧ wrap12 (-2049) = 2047 := by
  decide +kernel

/-- A substitute for NUM reaches the controller (D17): this one drops the second summand. -/
theorem test_num_substitute :
    pidOut { F32.binary32 with add := fun x _ => x } ⟨num 1, num 100, num 5⟩ ⟨num 7, num 0⟩ (num 4) (num 1) = num 4 := by
  decide +kernel

/-! ## The framer and the CRCs (95_test_vectors.md 2.1, 2.2) -/

theorem test_crc_check_values :
    crc8 [0x31, 0x32, 0x33, 0x34, 0x35, 0x36, 0x37, 0x38, 0x39] = 0x79 ∧
    crc16 [0x31, 0x32, 0x33, 0x34, 0x35, 0x36, 0x37, 0x38, 0x39] = 0x2614 ∧ crc8 [0xFF] = 0x5D := by decide +kernel

/-- CRC-20: the same loop from 0xFFFF gives the well-known CCITT-FALSE check value. -/
theorem test_crc16_bit_order :
    crc16From 0xFFFF [0x31, 0x32, 0x33, 0x34, 0x35, 0x36, 0x37, 0x38, 0x39] = 0x29B1 := by decide +kernel

theorem test_crc8_calc : (result .crc8Calc (givenBuf [0x3D, 0xC5, 0x05])).bind Result.val = some 0x00 := by decide +kernel
theorem test_crc16_calc :
    (result .crc16Calc (givenBuf [0x3D, 0xC5, 0x08, 0x2C, 0x20, 0x00])).bind Result.val = some 0xA732 := by decide +kernel
theorem test_nop : result .nop State.reset = some (Result.ofStatus .ok) := by decide +kernel

/-- FD-1. -/
theorem test_feed_heartbeat :
    trace heartbeat State.reset = List.replicate 7 FrameStatus.incomplete ++ [.ready] ∧
    framerWord (fed heartbeat) = 0x02196000 ∧ (fed heartbeat).pbuf.bytes 8 = heartbeat := by decide +kernel

/-- FD-9: a marker in noise opens a frame that swallows the next one. -/
theorem test_feed_swallows :
    trace (0x3D :: heartbeat) State.reset =
      List.replicate 6 FrameStatus.incomplete ++ [.invalid, .incomplete, .incomplete] ∧
    framerWord (fed (0x3D :: heartbeat)) = 0x0003F000 ∧ (fed (0x3D :: heartbeat)).dlen = 0x202C := by decide +kernel

/-- FD-4 and FD-5: the shortest short frame, and one byte shorter. -/
theorem test_feed_shortest :
    trace [0x3D, 0xC5, 0x05, 0x00] State.reset = [.incomplete, .incomplete, .incomplete, .invalid] ∧
    framerWord (fed [0x3D, 0xC5, 0x06, 0x4B, 0xBE, 0xBC]) = 0x019A5800 := by decide +kernel

/-- FRM-1. -/
theorem test_frm_reset :
    framerWord (fed [0x3D, 0xC5]) = 0x00082805 ∧
    (next (exec .frmReset (fed [0x3D, 0xC5]))).map framerWord = some 0x00033000 := by decide +kernel

/-- FD-11, then RDPKT twice. -/
theorem test_rdpkt :
    (result .rdpkt (fed (heartbeat ++ heartbeat))).map (fun r => (r.buf, r.len, r.val)) =
      some (some heartbeat, some 8, some 3) ∧
    ((next (exec .rdpkt (fed (heartbeat ++ heartbeat)))).map (fun t => ovrAfter t.prdy t.ovr)) = some false := by decide +kernel

/-- FRM-2. -/
theorem test_rdfrm :
    (result .rdfrm (fed [0x3D])).map (fun r => (r.val, r.len)) = some (some 0x00023003, some 0) := by decide +kernel

/-! ## The codec (2.3, 2.4, 2.5) -/

theorem test_identify_heartbeat :
    (result .identify (givenBuf heartbeat)).map (fun r => (r.kind, r.val, r.len)) =
      some (some .heartbeat, some 0x20, some 8) := by decide +kernel

/-- ID-22: a short header other than 0xC5. -/
theorem test_identify_unknown :
    (result .identify (givenBuf [0x3D, 0x85, 0x08, 0x0C, 0x20, 0x00, 0x9C, 0x30])).map (fun r => (r.kind, r.val)) =
      some (some .unknown, none) := by decide +kernel

/-- PL-1 and PL-4. -/
theorem test_parse_long :
    (result .parseLong (givenBuf [0x3D, 0x05, 0x01, 0x00, 0x10, 0x00, 0x5D, 0x00, 0x07, 0x00, 0x12, 0x1A, 0x02, 0x01,
      0x75, 0x2A])).bind Result.view = some ⟨1, 16, 0x5D, 0x0700, 0x1200, 0x021A, [0x01], 1⟩ ∧
    (result .parseLong (givenBuf (List.replicate 14 0))).map Result.status = some .eLength := by decide +kernel

/-- BW-1 and BW-6. -/
theorem test_build_with_crc :
    (result .buildWithCrc (givenBuf [0x3D, 0xC5, 0x08, 0xFF, 0x20, 0x00, 0xFF, 0xFF])).bind Result.buf = some heartbeat ∧
    (result .buildWithCrc (givenBuf [0x3D, 0xC5, 0x05, 0x00, 0x00])).map Result.status = some .eLength := by decide +kernel

/-- BL-2 and BL-3. -/
theorem test_build_long :
    (result .buildLong (given { Operands.zeros with
      hdr := #v[0x01, 0x00, 0x55, 0x55, 0x77, 0x00, 0x07, 0x00, 0x12, 0x03, 0x01] })).bind Result.buf = some version ∧
    (result .buildLong (given { Operands.zeros with hdr := header, pay := [0xAA, 0xBB] })).bind Result.buf =
      some [0x3D, 0x05, 0x01, 0x00, 0x11, 0x00, 0xC1, 0x00, 0x07, 0x00, 0x12, 0x03, 0x01, 0xAA, 0xBB, 0x89, 0x17] := by
  decide +kernel

/-- The codes of ID-1..ID-14, from the kinds themselves. -/
theorem test_kind_values :
    (result (.kindMotionShort shortBytes) State.reset).map (fun r => (r.kind.map PacketKind.code, r.val, r.len)) =
      some (some 1, some 0x03, some 8) ∧
    (result (.kindShortOther 0x21 ⟨0x3D, 0x07, 0x72, []⟩) State.reset).map (fun r => (r.kind.map PacketKind.code, r.val)) =
      some (some 8, some 0x21) ∧
    (result (.kindLongOther 0x0999 longBytes) State.reset).map (fun r => (r.kind.map PacketKind.code, r.val, r.len)) =
      some (some 14, some 0x0999, some 15) ∧
    (result (.kindNone []) State.reset).map (fun r => (r.kind.map PacketKind.code, r.val)) = some (some 0, none) := by
  decide +kernel

/-! ## The sensors (2.6) -/

/-- Channel 0 after the SAMPLEs (ENC, NOW) with VIN 1.65, PIN 0 and MM_PER_TICK 0.25. -/
def sampled (xs : List (BitVec 16 × BitVec 64)) : Channel :=
  xs.foldl (fun k x => sampleChannel { noParams with mmPerTick := num 25 100 } x.2 ⟨Config.vSet, false, x.1⟩ k) Channel.reset

/-- SM-2: the encoder wraps. -/
theorem test_sample_wraps :
    (sampled [(4090, 1000), (10, 1500)]).dist = num 4 ∧ (sampled [(4090, 1000), (10, 1500)]).speed = num 8 ∧
    (sampled [(4090, 1000), (10, 1500)]).meters = num 4 1000 := by decide +kernel

/-- SM-10: NOW went back. -/
theorem test_sample_now_back :
    (sampled [(0, 500), (40, 600), (80, 550)]).speed = num 100 ∧ (sampled [(0, 500), (40, 600), (80, 550)]).dt = num 0 ∧
    (sampled [(0, 500), (40, 600), (80, 550)]).meters = num 2 100 ∧
    (sampled [(0, 500), (40, 600), (80, 550)]).tPrev = 550 := by decide +kernel

/-- SV-1, SV-2, SV-3, SV-6, SV-7 and SV-9. -/
theorem test_sanitize_and_tension :
    sanitize ⟨0x7FC00000⟩ = num 165 100 ∧ sanitize (num 5) = num 33 10 ∧ sanitize (neg 1) = num 0 ∧
    sanitize ⟨0x80000000⟩ = ⟨0x80000000⟩ ∧ tension (num 185 100) = .normal ∧ tension (num 186 100) = .taut ∧
    tension (num 145 100) = .normal ∧ tension (num 144 100) = .slack := by decide +kernel

/-- SX-2, SX-3 and SX-8. -/
theorem test_wr_meters :
    (next (exec (.wrMeters 1) (givenAB 0x455AC000 0))).map (fun t => (t.chan 1).meters) = some (num 3000) ∧
    (next (exec (.wrMeters 1) (givenAB 0x7FC00000 0))).map (fun t => (t.chan 1).meters) = some Config.zero ∧
    (next (exec (.wrMeters 1) (givenAB 0x80000000 0))).map (fun t => (t.chan 1).meters) = some ⟨0x80000000⟩ := by
  decide +kernel

/-- SX-7. -/
theorem test_wr_color :
    (next (exec (.wrColor 0) (givenAB 0xFF0080FF 0))).map (fun t => (t.chan 0).color) = some ⟨255, 128, 0, 255⟩ := by
  decide +kernel

/-! ## PID and PWM (2.7, 2.8) -/

/-- PID-3: a negative error moves a saturated integral down at once. -/
theorem test_pid_saturated_integral :
    let g : Config.Gains := ⟨num 0, num 100, num 0⟩
    pidOut F32.binary32 g ⟨num 1000, num 6⟩ (neg 1) (num 1) = num 900 ∧
      pidAfter F32.binary32 g ⟨num 1000, num 6⟩ (neg 1) (num 1) = ⟨num 900, neg 1⟩ := by decide +kernel

/-- PID-6: no derivative at dt = 0. -/
theorem test_pid_zero_dt : pidOut F32.binary32 ⟨num 1, num 100, num 5⟩ Pid.cleared (num 4) (num 0) = num 4 := by decide +kernel

/-- PID-10 and PID-13. -/
theorem test_pid_step_errors :
    (result (.pidStep 0 .speed) (givenAB 0x3F800000 0xBF000000)).map Result.status = some .eOperand ∧
    (result (.pidStep 5 .speed) (givenAB 0x7FC00000 0x3F000000)).map Result.status = some .eChannel := by decide +kernel

/-- PID-9. -/
theorem test_pid_clear :
    (next (exec (.pidClear 0 .pressure) (withChan { Channel.reset with
      pids := ⟨num 5, num 2⟩, pidp := ⟨num 7, num 0⟩ }))).map (fun t => ((t.chan 0).pids, (t.chan 0).pidp)) =
      some (⟨num 5, num 2⟩, Pid.cleared) := by decide +kernel

/-- SH-1, SH-3, SH-5, SH-6, SH-8 and SH-9. -/
theorem test_shape :
    shape F32.binary32 (num 10) (num 0) = 0 ∧ shape F32.binary32 (num 105 10) (num 0) = 10 ∧ shape F32.binary32 (neg 105 10) (num 30) = 0xFFD8 ∧
    (shape F32.binary32 (neg 995) (num 30)).toInt = -1000 ∧ (shape F32.binary32 ⟨0xFF800000⟩ (num 0)).toInt = -1000 ∧
    shape F32.binary32 ⟨0x7FC00000⟩ (num 0) = 0 := by decide +kernel

/-- SH-5 through PWM_SHAPE: val is zero-extended. -/
theorem test_pwm_shape :
    (result (.pwmShape 0) ((givenAB 0xC1280000 0).setChan 0 { Channel.reset with pwmZero := num 30 })).bind Result.val =
      some 0x0000FFD8 := by decide +kernel

/-! ## RUN, modes, TICK (2.9) -/

/-- RL-1. -/
theorem test_run_stop :
    (next (exec (.run 0) (withChan { Channel.reset with
      pids := ⟨num 5, num 2⟩, pidp := ⟨num 7, num 0⟩, pwm := 300 }))).map
        (fun t => ((t.chan 0).pwm, (t.chan 0).pids, (t.chan 0).pidp)) =
      some (0, Pid.cleared, ⟨num 7, num 0⟩) := by decide +kernel

/-- RL-7: DIR −1 and the bias. -/
theorem test_run_send :
    (runChannel { noParams with speedGains := ⟨neg 2, num 0, num 0⟩, vSend := num 30 } false 0
      { Channel.reset with motion := .send, dir := true, pwmZero := num 20, speed := num 10 }).pwm.toInt = -60 := by
  decide +kernel

/-- RL-13, steps 2 to 6: the latch engages, holds and releases. -/
theorem test_run_latch :
    let p := { noParams with pressureGains := ⟨num 1000, num 0, num 0⟩ }
    let run := fun (latch : Bool) (v : F32) =>
      let k := runChannel p false 0 { Channel.reset with motion := .pressureInUse, pres := true, latch := latch, v := v }
      (k.latch, k.pwm.toInt)
    run false (num 172 100) = (true, 70) ∧ run true (num 168 100) = (true, 29) ∧ run true (num 160 100) = (true, -49) ∧
      run true (num 150 100) = (false, -149) ∧ run false (num 168 100) = (false, 0) := by decide +kernel

/-- RL-11: the assist window is half open, and RL-12: no loss, no assist. -/
theorem test_run_assist :
    let p := { noParams with assistMs := 500, assistPwm := num 200 }
    let run := fun (lost : Bool) (now : BitVec 64) =>
      (runChannel p false now { Channel.reset with motion := .pressureIdle, tLost := 1000, lostValid := lost }).pwm
    run true 1499 = 200 ∧ run true 1500 = 0 ∧ run false 1499 = 0 := by decide +kernel

/-- MW-8: a move of distance 0 completes at the first RUN. -/
theorem test_run_velocity_completes :
    (next (exec (.run 0) (withChan { Channel.reset with motion := .velocity, tv := num 20 }))).map
        (fun t => ((t.chan 0).motion, t.res.events)) = some (.stop, [.moveDone 0]) := by decide +kernel

/-- RL-14, first and fourth row. -/
theorem test_led :
    ledOf .taut true ⟨255, 128, 0, 255⟩ = ⟨255, 0, 0⟩ ∧ ledOf .normal true ⟨255, 128, 0, 255⟩ = ⟨255, 128, 0⟩ := by decide +kernel

/-- TICK from reset with filament on every channel: four presence events, in channel order (R248). -/
theorem test_tick_events :
    (result .tick { State.reset with
      cmd := { Request.ofWord 0x12 Operands.zeros with sensors := Vector.replicate Config.nch ⟨Config.vSet, true, 0⟩ } }).map
        Result.events = some [.presence 0 true, .presence 1 true, .presence 2 true, .presence 3 true] := by decide +kernel

/-- MW-1 and MW-3. -/
theorem test_set_motion :
    (next (exec (.setMotion 2 1) State.reset)).map (fun t => (t.chan 2).motion) = some .send ∧
    (result (.setMotion 0 7) State.reset).map Result.status = some .eOperand := by decide +kernel

/-- MW-6 and MW-7. -/
theorem test_set_velocity :
    (next (exec (.setVelocity 1) (givenAB 0x41A00000 0x40000000))).map
        (fun t => ((t.chan 1).motion, (t.chan 1).tv, (t.chan 1).td)) = some (.velocity, num 20, num 2) ∧
    (result (.setVelocity 1) (givenAB 0x7F800000 0x40000000)).map Result.status = some .eOperand := by decide +kernel

/-- MW-9 and MW-10. -/
theorem test_cfg_ch :
    (next (exec (.cfgCh 1 true) (givenAB 0x41F00000 0))).map (fun t => ((t.chan 1).dir, (t.chan 1).pwmZero)) =
      some (true, num 30) ∧
    (result (.cfgCh 1 false) (givenAB 0xBF800000 0)).map Result.status = some .eOperand := by decide +kernel

/-- MW-11. -/
theorem test_cfg_dev : (next (exec (.cfgDev true) State.reset)).map State.lite = some true := by decide +kernel

/-- MW-13 in part: a NaN is reported as 0.0 (R250). -/
theorem test_rd_ch :
    ((result (.rdCh 0) State.reset).bind Result.chan).map ChannelReport.v = some (num 165 100) ∧
    ((result (.rdCh 0) (withChan { Channel.reset with speed := ⟨0x7FC00000⟩ })).bind Result.chan).map
      ChannelReport.speed = some Config.zero := by decide +kernel

/-- R100's example of MOVE: a negative distance runs backward, and the target distance is positive. -/
theorem test_asm_move :
    ((Asm.move 1 ⟨true, 50, 0⟩ ⟨false, 20, 0⟩).requests (Vector.replicate Config.nch ⟨Config.zero, false, 0⟩) 0).map
        (fun r => (r.word, r.operands.a, r.operands.b)) = [(0x00000117, 0xC1A00000, 0x42480000)] := by decide +kernel

/-- The boot writes of R305 for the given mode code, with a pwm_zero that CFG_CH refuses when `bad`. -/
def bootStream (bad : Bool) (mode : Word) : List Request :=
  let word (w : Word) := Request.ofWord w { Operands.zeros with a := if bad then 0xBF800000 else 0 }
  let each (opc : Word) := [0x000, 0x100, 0x200, 0x300].map fun c : Word => word (opc + c)
  [word 0x1B] ++ each 0x1A ++ each 0x18 ++ each 0x19 ++ each (0x16 + mode * 0x10000)

/-- R305, and the choices of notes/assumptions/18.md: refused writes count, and no TICK is needed; a TICK before the last write
fails, and so does a missing one. -/
theorem test_boot :
    bootDone (bootStream false 4 ++ [Request.ofWord 0x12 Operands.zeros]) = true ∧ bootDone (bootStream true 7) = true ∧
    bootDone (Request.ofWord 0x12 Operands.zeros :: bootStream false 4) = false ∧
    bootDone ((bootStream false 4).drop 1) = false := by decide +kernel

/-! ## Witnesses: a concrete state and operands that meet the hypotheses of each statement -/

/-- In-flight byte 5 of a heartbeat, another heartbeat staged, and a FEED waiting. -/
def busy : State :=
  { fed (heartbeat ++ [0x3D, 0xC5, 0x08, 0x2C, 0x20]) with inbox := [Request.ofWord 0x00000001 Operands.zeros] }

/-- A channel at the ends of its ranges. -/
def edge : Channel :=
  { Channel.reset with
    pids := ⟨Config.iLim, Config.zero⟩, pidp := ⟨F32.negate Config.iLim, Config.zero⟩, pwm := 1000, v := Config.vMax,
    tens := .taut, pwmZero := ⟨0x7F7FFFFF⟩ }

theorem busy_memory : MemoryInv busy := ⟨by decide +kernel, by decide +kernel⟩

theorem busy_framer : FramerInv busy :=
  ⟨by decide +kernel, fun _ => ⟨by decide +kernel, by decide +kernel, by decide +kernel, by decide +kernel,
    by decide +kernel, by decide +kernel⟩⟩

theorem busy_stage : StageInv busy :=
  ⟨by decide +kernel, fun _ => by unfold Delivered; decide +kernel, by decide +kernel, by decide +kernel⟩

theorem busy_channels : ChannelsInv busy := by
  intro c
  have h : busy.chan c = Channel.reset := by revert c; decide +kernel
  rw [h]
  refine ⟨?_, ?_, ?_, ?_, ?_, ?_, ?_, ?_, ?_, ?_⟩ <;> first | decide +kernel | (unfold Within; decide +kernel)

theorem edge_inv : ChannelInv edge := by
  refine ⟨?_, ?_, ?_, ?_, ?_, ?_, ?_, ?_, ?_, ?_⟩ <;> first | decide +kernel | (unfold Within; decide +kernel)

theorem witness_DecodeOfEncode :
    WellFormed (.kindShortOther 0xFF ⟨0, 0, 0, List.replicate 993 0xFF⟩) = true ∧
    WellFormed (.kindUnknown [0x3D, 0x91]) = true ∧ WellFormed (.setMotion 7 7) = true := by decide +kernel

theorem witness_EncodeOfDecode :
    decode (.cmd 0x00070716) = .ok (.setMotion 7 7) ∧ decode (.wire heartbeat) = .ok (.kindHeartbeat shortBytes) := by
  decide +kernel

theorem witness_StepTakesTheNextRequest :
    busy.inbox = Request.ofWord 0x00000001 Operands.zeros :: [] ∧ decodeCmd 0x00000001 = .ok (.feed 0) ∧
    State.reset.inbox = [] := by decide +kernel

/-- Both ends of each range of unknown opcodes, and a known opcode that no row admits. -/
theorem witness_IllegalWordsAnswerTheirStatus :
    (∀ k ∈ [5, 7, 14, 15, 29, 255], (5 ≤ k ∧ k ≤ 7) ∨ (14 ≤ k ∧ k ≤ 15) ∨ 29 ≤ k) ∧
    (∀ x ∈ commandRows, x.admits 0x0001011B = false) ∧ (∀ x ∈ commandRows, x.admits 0x00001000 = false) := by
  decide +kernel

theorem witness_ErrorsWriteNothing :
    (result (.setMotion 0 7) State.reset).map Result.status = some .eOperand ∧ Status.eOperand ≠ .ok := by decide +kernel

theorem witness_ChannelOutOfRange : 4 ≤ (4 : BitVec 3).toNat ∧ 4 ≤ (7 : BitVec 3).toNat := by decide +kernel

/-- An infinite A, an infinite B and a negative B, and a negative A, on channel 3. -/
theorem witness_IllegalOperands :
    (3 : BitVec 3).toNat < 4 ∧ (givenAB 0x7F800000 0).opA.isFinite = false ∧ (givenAB 0 0xFF800000).opB.isFinite = false ∧
    F32.lt (givenAB 0 0x80000001).opB Config.zero = true ∧ F32.lt (givenAB 0x80000001 0).opA Config.zero = true := by
  decide +kernel

theorem witness_StepKeepsMemoryCanonical : MemoryInv busy ∧ (next (step busy)).isSome = true :=
  ⟨busy_memory, by decide +kernel⟩

theorem witness_SeekingIffIndexZeroKept :
    (busy.fs = .seeking ↔ busy.idx.val = 0) ∧ (State.reset.fs = .seeking ↔ State.reset.idx.val = 0) ∧
    (next (exec .frmReset busy)).isSome = true :=
  ⟨by decide +kernel, by decide +kernel, by decide +kernel⟩

theorem witness_StepKeepsFramerInvariant : MemoryInv busy ∧ FramerInv busy ∧ (next (step busy)).isSome = true :=
  ⟨busy_memory, busy_framer, by decide +kernel⟩

theorem witness_StepKeepsStagedFrameValid :
    MemoryInv busy ∧ FramerInv busy ∧ StageInv busy ∧ busy.plen ≠ 0 ∧ (next (step busy)).isSome = true :=
  ⟨busy_memory, busy_framer, busy_stage, by decide +kernel, by decide +kernel⟩

theorem witness_StepKeepsChannelRanges : ChannelsInv (withChan edge) ∧ (next (step (withChan edge))).isSome = true := by
  refine ⟨fun c => ?_, by decide +kernel⟩
  have h : (withChan edge).chan c = edge ∨ (withChan edge).chan c = Channel.reset := by revert c; decide +kernel
  rcases h with h | h <;> rw [h]
  · exact edge_inv
  · have := busy_channels 0
    exact (show busy.chan 0 = Channel.reset by decide +kernel) ▸ this

theorem witness_EveryRunIsSafe : Inv busy :=
  ⟨busy_memory, busy_framer, busy_stage, busy_channels⟩

/-- A body byte, the first and the last byte. -/
theorem witness_SingleByteChangeFailsCrc16 :
    crc16Ok heartbeat = true ∧ (∀ i ∈ [0, 5, 7], i < heartbeat.length ∧ (0x01 : Byte) ≠ byteAt heartbeat i) := by
  decide +kernel

theorem witness_BuiltBuffersPassBothChecks :
    (result .buildWithCrc (givenBuf heartbeat)).bind Result.buf = some heartbeat ∧
    (result .buildLong (given { Operands.zeros with hdr := header })).bind Result.buf = some version := by decide +kernel

/-- The shortest and the longest buffer, and the three ways a length is refused. -/
theorem witness_BuildWithCrcResult :
    (byteAt [0x3D, 0xC5, 0x06, 0, 0, 0] 1).msb = true ∧ [0x3D, 0xC5, 0x06, 0, 0, (0 : Byte)].length = 3 + 3 ∧
    (byteAt [0x3D, 0x05, 0, 0, 0x08, 0, 0, 0] 1).msb = false ∧ [0x3D, 0x05, 0, 0, 0x08, 0, 0, (0 : Byte)].length < 6 + 3 ∧
    (List.replicate 1000 (0 : Byte)).length ≤ 1000 ∧ 1000 < (List.replicate 1001 (0 : Byte)).length ∧
    [(0x3D : Byte)].length < 2 := by decide +kernel

theorem witness_BuildLongResult :
    (given { Operands.zeros with pay := List.replicate 984 0 }).pay.length ≤ 984 ∧
    984 < (given { Operands.zeros with pay := List.replicate 985 0 }).pay.length := by decide +kernel

theorem witness_ParseLongOfBuildLong :
    (result .buildLong (given { Operands.zeros with hdr := header })).bind Result.buf = some version ∧
    (givenBuf version).bufin = version := by decide +kernel

theorem witness_BuiltFramesFrameBack :
    (result .buildWithCrc (givenBuf heartbeat)).bind Result.buf = some heartbeat ∧ byteAt heartbeat 0 = 0x3D ∧
    heartbeat.length ≤ 999 ∧ (byteAt heartbeat 1).msb = true ∧ (byteAt heartbeat 2).toNat = heartbeat.length ∧
    Memory.wf State.reset.buf = true ∧ Memory.wf State.reset.pbuf = true ∧ State.reset.fs = .seeking := by decide +kernel

theorem witness_ParseLongView :
    15 ≤ (givenBuf version).bufin.length ∧ (givenBuf version).bufin.length ≤ 1000 ∧
    (givenBuf (List.replicate 14 0)).bufin.length < 15 ∧ 1000 < (givenBuf (List.replicate 1001 0)).bufin.length := by
  decide +kernel

/-- ID-4, of the least length, and ID-8. -/
theorem witness_IdentifyShortFamily :
    (∀ b ∈ [[0x3D, 0xC5, 0x07, 0x72, 0x06, 0xAC, 0x30], [0x3D, 0xC5, 0x07, 0x72, 0x21, 0x29, (0x64 : Byte)]],
      7 ≤ b.length ∧ b.length ≤ 1000 ∧ crc16Ok b = true ∧ byteAt b 1 = 0xC5) ∧
    byteAt [0x3D, 0xC5, 0x07, 0x72, 0x06, 0xAC, 0x30] 4 = 0x06 ∧
    ¬ byteAt [0x3D, 0xC5, 0x07, 0x72, 0x21, 0x29, 0x64] 4 ∈ knownCommands := by decide +kernel

/-- ID-12, of the least length, and ID-14. -/
theorem witness_IdentifyLongFamily :
    (∀ b ∈ [version, [0x3D, 0x05, 0x01, 0x00, 0x0F, 0x00, 0xCE, 0x00, 0x07, 0x00, 0x12, 0x99, 0x09, 0x6A, 0xA9]],
      15 ≤ b.length ∧ b.length ≤ 1000 ∧ crc16Ok b = true ∧ byteAt b 1 = 0x05) ∧ rd16 version 11 = 0x0103 ∧
    ¬ rd16 [0x3D, 0x05, 0x01, 0x00, 0x0F, 0x00, 0xCE, 0x00, 0x07, 0x00, 0x12, 0x99, 0x09, 0x6A, 0xA9] 11 ∈ knownTypes := by
  decide +kernel

/-- ID-19, ID-17, ID-26, and the three ways to UNKNOWN: ID-20, ID-21 and ID-23. -/
theorem witness_IdentifyNoneAndUnknown :
    [(0x3D : Byte)].length < 2 ∧ crc16Ok [0x3D, 0xC5, 0x08, 0x2C, 0x20, 0x00, 0x32, 0xA6] = false ∧
    1000 < (List.replicate 1001 (0 : Byte)).length ∧
    (crc16Ok [0x3D, 0x91] = true ∧ byteAt [0x3D, 0x91] 1 ≠ 0xC5 ∧ byteAt [0x3D, 0x91] 1 ≠ 0x05) ∧
    (crc16Ok [0x3D, 0xC5, 0x06, 0x4B, 0xBE, 0xBC] = true ∧ byteAt [0x3D, 0xC5, 0x06, 0x4B, 0xBE, 0xBC] 1 = 0xC5) ∧
    (crc16Ok [0x3D, 0x05, 0x00, 0x00, 0x0E, 0x00, 0x1C, 0x01, 0x02, 0x03, 0x04, 0x05, 0xCA, 0x82] = true ∧
      byteAt [0x3D, 0x05, 0x00, 0x00, 0x0E, 0x00, 0x1C, 0x01, 0x02, 0x03, 0x04, 0x05, 0xCA, 0x82] 1 = 0x05) := by
  decide +kernel

theorem witness_IdentifyRunsTheDecodedKind :
    decode (.wire (givenBuf heartbeat).bufin) = .ok (.kindHeartbeat shortBytes) := by decide +kernel

theorem witness_PacketKindsComplete :
    (List.replicate 993 (0 : Byte)).length + 7 ≤ 1000 ∧ (List.replicate 985 (0 : Byte)).length + 15 ≤ 1000 ∧
    (List.replicate 1000 (0 : Byte)).length ≤ 1000 := by decide +kernel

theorem witness_CrcCalculations :
    (givenBuf (List.replicate 1000 0)).bufin.length ≤ 1000 ∧ 1000 < (givenBuf (List.replicate 1001 0)).bufin.length := by
  decide +kernel

theorem witness_FeedWhileSeeking :
    State.reset.fs = .seeking ∧ (0x3C : Byte) ≠ 0x3D ∧ Memory.wf State.reset.buf = true ∧
    Memory.wf State.reset.pbuf = true ∧ (fed [0x3D, 0xC5]).fs = .framing ∧
    (next (exec (.feed 0x3D) (fed [0x3D, 0xC5]))).map State.fs = some .framing := by decide +kernel

/-- Offset 1, the last header byte of a short frame, and the two length bytes and the last header byte of a long one. -/
theorem witness_FeedStoresHeaderBytes :
    (∀ s ∈ [fed [0x3D], fed [0x3D, 0xC5], fed [0x3D, 0x05, 0x01, 0x00], fed [0x3D, 0x05, 0x01, 0x00, 0x0F]],
      Memory.wf s.buf = true ∧ Memory.wf s.pbuf = true ∧ s.fs = .framing) ∧
    (fed [0x3D]).idx.val = 1 ∧ (0xC5 : Byte).msb = true ∧
    ((fed [0x3D, 0xC5]).idx.val = 2 ∧ (fed [0x3D, 0xC5]).short = true) ∧
    ((fed [0x3D, 0x05, 0x01, 0x00]).idx.val = 4 ∧ (fed [0x3D, 0x05, 0x01, 0x00]).short = false) ∧
    ((fed [0x3D, 0x05, 0x01, 0x00, 0x0F]).idx.val = 5 ∧ (fed [0x3D, 0x05, 0x01, 0x00, 0x0F]).dlen.toNat < 256) := by
  decide +kernel

/-- FD-3 and FD-4 before their last byte, and FD-5, whose length is the least that is accepted. -/
theorem witness_FeedAtHeaderCrc :
    (∀ s ∈ [fed [0x3D, 0xC5, 0x08], fed [0x3D, 0xC5, 0x05], fed [0x3D, 0xC5, 0x06]],
      Memory.wf s.buf = true ∧ Memory.wf s.pbuf = true ∧ s.fs = .framing ∧ s.idx.val = coff s.short) ∧
    (0x2D : Byte) ≠ (fed [0x3D, 0xC5, 0x08]).crc8r ∧ (fed [0x3D, 0xC5, 0x05]).dlen.toNat < coff true + 3 ∧
    ((0x4B : Byte) = (fed [0x3D, 0xC5, 0x06]).crc8r ∧ coff true + 3 ≤ (fed [0x3D, 0xC5, 0x06]).dlen.toNat) := by
  decide +kernel

/-- The last byte of a frame, with the stage empty and with a frame already staged. -/
theorem witness_FeedCompletesTheFrame :
    (∀ s ∈ [fed (heartbeat.take 7), fed (heartbeat ++ heartbeat.take 7)],
      Memory.wf s.buf = true ∧ Memory.wf s.pbuf = true ∧ s.fs = .framing ∧ coff s.short < s.idx.val ∧
        s.idx.val + 1 = s.dlen.toNat) ∧
    (fed (heartbeat.take 7)).prdy = false ∧ (fed (heartbeat ++ heartbeat.take 7)).prdy = true := by decide +kernel

/-- The first byte past the header CRC8, and the 999th byte of a frame that declares 1000. -/
theorem witness_FeedGoesOnUntilTheCap :
    (∀ s ∈ [fed (heartbeat.take 4), { fed (heartbeat.take 4) with idx := 998, dlen := 1000 }],
      Memory.wf s.buf = true ∧ Memory.wf s.pbuf = true ∧ s.fs = .framing ∧ coff s.short < s.idx.val ∧
        s.idx.val + 1 ≠ s.dlen.toNat) ∧
    (fed (heartbeat.take 4)).idx.val + 1 ≠ 999 ∧ (998 : Fin 999).val + 1 = 999 := by decide +kernel

theorem witness_RdpktHandsOverTheFrame : (fed heartbeat).plen.toNat ≤ 1000 ∧ (fed heartbeat).plen ≠ 0 := by decide +kernel

/-- VIN a NaN, negative, above 3.3, and the ends of the range; the tension bounds; a loss and a gain of filament. -/
theorem witness_SampleVoltageAndPresence :
    (3 : BitVec 3).toNat = (3 : Fin Config.nch).val ∧ (⟨0x7FC00000⟩ : F32).isNaN = true ∧ F32.lt (neg 1) Config.zero = true ∧
    F32.lt Config.vMax (num 5) = true ∧ (F32.le Config.zero Config.vMax = true ∧ F32.le Config.vMax Config.vMax = true) ∧
    F32.lt Config.vTaut (num 186 100) = true ∧ F32.lt (num 144 100) Config.vSlack = true ∧
    (F32.lt Config.vTaut Config.vTaut = false ∧ F32.lt Config.vTaut Config.vSlack = false) ∧
    (withChan { Channel.reset with pres := true }).sensors 0 = ⟨Config.zero, false, 0⟩ ∧
    ((withChan { Channel.reset with pres := true }).chan 0).pres = true ∧ (State.reset.chan 0).pres = false := by
  decide +kernel

/-- The baseline; a sample later; and one at a NOW that has gone back. -/
theorem witness_SampleEncoderAndFrame :
    (State.reset.chan 3).encValid = false ∧ ((withChan (sampled [(40, 0)])).chan 0).encValid = true ∧
    ((withChan (sampled [(40, 0)])).chan 0).tPrev.toNat ≤ State.reset.now.toNat ∧
    State.reset.now.toNat < ((withChan (sampled [(40, 500)])).chan 0).tPrev.toNat ∧ 0 < elapsedMs (sampled [(40, 0)]) 1 := by
  decide +kernel

theorem witness_WrMetersAndWrColor :
    (3 : BitVec 3).toNat = (3 : Fin Config.nch).val ∧ (givenAB 0x7FC00000 0).opA.isNaN = true ∧
    F32.lt (givenAB 0xBF800000 0).opA Config.zero = true ∧ F32.lt Config.metersMax (givenAB 0x7F800000 0).opA = true ∧
    (F32.le Config.zero (givenAB 0x453B8000 0).opA = true ∧ F32.le (givenAB 0x453B8000 0).opA Config.metersMax = true) := by
  decide +kernel

theorem witness_PidClearClearsOne : (0 : BitVec 3).toNat = (0 : Fin Config.nch).val ∧ (3 : BitVec 3).toNat = (3 : Fin Config.nch).val := by
  decide +kernel

/-- dt = 0.0, −0.0 and 0.5. -/
theorem witness_PidStepResult :
    (3 : BitVec 3).toNat = (3 : Fin Config.nch).val ∧
    (givenAB 0x40400000 0x00000000).opA.isFinite = true ∧
    ∀ dt ∈ [(givenAB 0x40400000 0x00000000).opB, (givenAB 0x40400000 0x80000000).opB, (givenAB 0x40400000 0x3F000000).opB],
      dt.isFinite = true ∧ F32.le Config.zero dt = true := by decide +kernel

/-- A NaN, the edge of the deadband, and one value past it in each direction. -/
theorem witness_PwmShapeResult :
    (3 : BitVec 3).toNat = (3 : Fin Config.nch).val ∧ (givenAB 0x7FC00000 0).opA.isNaN = true ∧
    F32.le (F32.abs (givenAB 0xC1200000 0).opA) Config.deadband = true ∧
    (∀ x ∈ [(givenAB 0x41200001 0).opA, (givenAB 0xC1200001 0).opA],
      x.isNaN = false ∧ F32.le (F32.abs x) Config.deadband = false) := by decide +kernel

theorem witness_SetMotionResult :
    (3 : BitVec 3).toNat = (3 : Fin Config.nch).val ∧ (State.reset.chan 3).motion ≠ .velocity ∧ (State.reset.chan 3).motion = .stop := by
  decide +kernel

theorem witness_SetVelocityResult :
    (0 : BitVec 3).toNat = (0 : Fin Config.nch).val ∧ (givenAB 0x7F7FFFFF 0x80000000).opA.isFinite = true ∧
    (givenAB 0x7F7FFFFF 0x80000000).opB.isFinite = true ∧ (State.reset.chan 0).motion ≠ .velocity ∧
    ((withChan { Channel.reset with motion := .velocity }).chan 0).motion = .velocity := by decide +kernel

/-- pwm_zero the largest finite number, and −0.0. -/
theorem witness_ConfigurationWrites :
    (3 : BitVec 3).toNat = (3 : Fin Config.nch).val ∧
    ∀ x ∈ [(givenAB 0x7F7FFFFF 0).opA, (givenAB 0x80000000 0).opA],
      x.isFinite = true ∧ F32.le Config.zero x = true := by decide +kernel

theorem witness_RunInStop : (0 : BitVec 3).toNat = (0 : Fin Config.nch).val ∧ (State.reset.chan 0).motion = .stop := by decide +kernel

theorem witness_RunSpeedLaws :
    (0 : BitVec 3).toNat = (0 : Fin Config.nch).val ∧ ((withChan { Channel.reset with motion := .send }).chan 0).motion = .send ∧
    ((withChan { Channel.reset with motion := .slowSend }).chan 0).motion = .slowSend ∧
    ((withChan { Channel.reset with motion := .pull }).chan 0).motion = .pull := by decide +kernel

theorem witness_RunInPressureIdle :
    (0 : BitVec 3).toNat = (0 : Fin Config.nch).val ∧
    ∀ p ∈ [true, false], ((withChan { Channel.reset with motion := .pressureIdle, pres := p }).chan 0).motion =
      .pressureIdle ∧ ((withChan { Channel.reset with motion := .pressureIdle, pres := p }).chan 0).pres = p := by
  decide +kernel

/-- The voltages of RL-13: below the release point, above the band, at both edges of the band, latched and not. -/
theorem witness_RunInPressureInUse :
    ((withChan { Channel.reset with motion := .pressureInUse }).chan 0).motion = .pressureInUse ∧
    F32.lt (num 150 100) Config.vRelease = true ∧
    (F32.lt (num 172 100) Config.vRelease = false ∧ F32.lt Config.vBandHi (num 172 100) = true) ∧
    (F32.lt Config.vRelease Config.vRelease = false ∧ F32.lt Config.vBandHi Config.vRelease = false) ∧
    F32.lt (num 160 100) Config.vSet = true ∧
    (∀ v ∈ [Config.vSet, Config.vBandHi],
      F32.lt v Config.vRelease = false ∧ F32.lt v Config.vSet = false ∧ F32.lt Config.vBandHi v = false) := by
  decide +kernel

/-- A move that is exactly complete, and one that is not. -/
theorem witness_RunInVelocity :
    ((withChan { Channel.reset with motion := .velocity }).chan 0).motion = .velocity ∧
    F32.le (num 2) (F32.add (num 15 10) (F32.abs (neg 1 2))) = true ∧
    F32.le (num 2) (F32.add (num 1) (F32.abs (neg 1 2))) = false := by decide +kernel

theorem witness_RunLedAndFrame :
    (0 : BitVec 3).toNat = (0 : Fin Config.nch).val ∧ ((withChan edge).chan 0).tens = .taut ∧
    ((withChan { Channel.reset with tens := .slack }).chan 0).tens = .slack ∧
    (((withChan { Channel.reset with pres := true }).chan 0).tens = .normal ∧
      ((withChan { Channel.reset with pres := true }).chan 0).pres = true) ∧
    ((State.reset.chan 0).tens = .normal ∧ (State.reset.chan 0).pres = false) := by decide +kernel

theorem witness_TickChannelsAreIndependent :
    State.reset.chan 1 = (withChan edge).chan 1 ∧ State.reset.sensors 1 = (withChan edge).sensors 1 ∧
    State.reset.now = (withChan edge).now ∧ State.reset.lite = (withChan edge).lite ∧
    (next (exec .tick State.reset)).isSome = true ∧ (next (exec .tick (withChan edge))).isSome = true := by
  decide +kernel

theorem witness_OnlyRunAndTickChangePwm :
    ((next (exec (.run 0) (withChan edge))).map fun t => t.pwmOut 0) = some 0 ∧ (withChan edge).pwmOut 0 = 1000 := by
  decide +kernel

theorem witness_ModeChangesAlwaysClear :
    ((next (exec (.setMotion 0 1) (withChan edge))).map fun t => (t.chan 0).motion) = some .send ∧
    ((withChan edge).chan 0).motion = .stop := by decide +kernel

/-- A finite register, and one that is not. -/
theorem witness_RdChReports :
    (0 : BitVec 3).toNat = (0 : Fin Config.nch).val ∧ ((withChan edge).chan 0).v.isFinite = true ∧
    ((withChan { Channel.reset with meters := ⟨0x7F800000⟩ }).chan 0).meters.isFinite = false := by decide +kernel

end Sys2Proof.Tests
end

