-- ==== Sys2Proof/Proofs/Identify.lean ====
section
/-! PROOFS. IDENTIFY and the packet kinds (spec/30_encoding.md R95, spec/41_packet_codec.md R150): what a wire buffer decodes to
beside how it is classified, and what the decoded kind answers. -/

namespace Sys2Proof.Machine

/-! ## The length of a frame with a discriminator -/

theorem seven_le_length_of_shortHeader {b : List Byte} (hd : noDiscriminator b = false)
    (hs : byteAt b 1 = Config.shortHeader) : 7 ≤ b.length := by
  by_contra hlt
  have : noDiscriminator b = true := noDiscriminator_eq_true.2 (.inr (.inl ⟨hs, by omega⟩))
  simp [hd] at this

theorem fifteen_le_length_of_longHeader {b : List Byte} (hd : noDiscriminator b = false)
    (hl : byteAt b 1 = Config.longHeader) : 15 ≤ b.length := by
  by_contra hlt
  have : noDiscriminator b = true := noDiscriminator_eq_true.2 (.inr (.inr ⟨hl, by omega⟩))
  simp [hd] at this

/-- The free bytes that a short-family frame decodes to stand for a frame of the same length (R91). -/
theorem shortLength_shortFrameOf {b : List Byte} (h : 7 ≤ b.length) : shortLength (shortFrameOf b) = b.length := by
  simp only [shortLength, shortFrameOf, List.length_take, List.length_drop]
  omega

/-- The free bytes that a long-family frame decodes to stand for a frame of the same length (R92). -/
theorem longLength_longFrameOf {b : List Byte} (h : 15 ≤ b.length) : longLength (longFrameOf b) = b.length := by
  simp only [longLength, longFrameOf, List.length_take, List.length_drop, longHeaderLen_eq, longOverhead_eq]
  omega

/-! ## What a wire buffer decodes to -/

/-- What a wire buffer decodes to (R95), beside IDENTIFY's classification of the same buffer (R150): both read the CRC16, the
header byte and the discriminator in that order. -/
theorem decode_wire_cases {b : List Byte} {i : Instr} (h : decode (.wire b) = .ok i) :
    b.length ≤ 1000 ∧
    ((crc16Ok b = false ∧ classify b = (.none, none) ∧ i = .kindNone b) ∨
    (crc16Ok b = true ∧ noDiscriminator b = true ∧ classify b = (.unknown, none) ∧ i = .kindUnknown b) ∨
    (crc16Ok b = true ∧ byteAt b 1 = Config.shortHeader ∧ 7 ≤ b.length ∧
      classify b = (shortKind (byteAt b 4), some ((byteAt b 4).setWidth 32)) ∧
      i = shortInstr (byteAt b 4) (shortFrameOf b)) ∨
    (crc16Ok b = true ∧ byteAt b 1 = Config.longHeader ∧ 15 ≤ b.length ∧
      classify b = (longKind (rd16 b 11), some ((rd16 b 11).setWidth 32)) ∧
      i = longInstr (rd16 b 11) (longFrameOf b))) := by
  have hne : ¬ Config.longHeader = Config.shortHeader := by decide
  have hle : ¬ Config.pktMax < b.length := fun hgt => by simp [decode, decodeWire, hgt] at h
  refine ⟨Nat.not_lt.1 hle, ?_⟩
  obtain ⟨hc, hk⟩ | ⟨hc, hd, hk⟩ | ⟨hc, hd, hs, hk⟩ | ⟨hc, hd, hl, hk⟩ := classify_cases b
  · have hi : Instr.kindNone b = i := by simpa [decode, decodeWire, hle, hc] using h
    exact .inl ⟨hc, hk, hi.symm⟩
  · have hi : Instr.kindUnknown b = i := by simpa [decode, decodeWire, hle, hc, hd] using h
    exact .inr (.inl ⟨hc, hd, hk, hi.symm⟩)
  · have hi : shortInstr (byteAt b 4) (shortFrameOf b) = i := by simpa [decode, decodeWire, hle, hc, hd, hs] using h
    exact .inr (.inr (.inl ⟨hc, hs, seven_le_length_of_shortHeader hd hs, hk, hi.symm⟩))
  · have hi : longInstr (rd16 b 11) (longFrameOf b) = i := by simpa [decode, decodeWire, hle, hc, hd, hl, hne] using h
    exact .inr (.inr (.inr ⟨hc, hl, fifteen_le_length_of_longHeader hd hl, hk, hi.symm⟩))

/-! ## What the decoded kind answers -/

/-- The kind selected by a short command byte answers that byte's kind and the byte as val (R155..R162). -/
theorem exec_shortInstr (cmd : Byte) (f : ShortFrame) (s : State) :
    exec (shortInstr cmd f) s = identified (shortLength f) (shortKind cmd) (some (cmd.setWidth 32)) s := by
  unfold shortInstr shortKind
  split_ifs with h1 h2 h3 h4 h5 h6 h7
  case neg => rfl
  all_goals subst cmd; rfl

/-- The kind selected by a long type answers that type's kind and the type as val (R163..R168). -/
theorem exec_longInstr (type : BitVec 16) (f : LongFrame) (s : State) :
    exec (longInstr type f) s = identified (longLength f) (longKind type) (some (type.setWidth 32)) s := by
  unfold longInstr longKind
  split_ifs with h1 h2 h3 h4 h5
  case neg => rfl
  all_goals subst type; rfl

/-- An instruction decoded from a wire buffer answers the buffer's length and its classification, whatever the state's own
BUFIN is. -/
theorem exec_of_decode_wire {b : List Byte} {i : Instr} (h : decode (.wire b) = .ok i) (s : State) :
    exec i s = identified b.length (classify b).1 (classify b).2 s := by
  obtain ⟨-, ⟨-, hk, rfl⟩ | ⟨-, -, hk, rfl⟩ | ⟨-, -, h7, hk, rfl⟩ | ⟨-, -, h15, hk, rfl⟩⟩ := decode_wire_cases h
  · rw [hk]; rfl
  · rw [hk]; rfl
  · rw [exec_shortInstr, shortLength_shortFrameOf h7, hk]
  · rw [exec_longInstr, longLength_longFrameOf h15, hk]

/-- Settles O29: IDENTIFY answers its BUFIN's length and classification, and so does the kind that BUFIN decodes to. -/
theorem identifyRunsTheDecodedKind : Obligations.IdentifyRunsTheDecodedKind := by
  intro s i h
  have hid : exec .identify s = identified s.bufin.length (classify s.bufin).1 (classify s.bufin).2 s := rfl
  rw [hid, exec_of_decode_wire h]

end Sys2Proof.Machine
end

