-- ==== Sys2Proof/Proofs/Feed.lean ====
section
/-! PROOFS. FEED (spec/40_frame_decoder.md R124..R128): the fields of the state after a byte is stored, the outcomes of one
FEED on the state, and what a byte before the header CRC8 does. -/

namespace Sys2Proof.Machine

/-! ## The state after a byte is stored -/

section
variable (b : Byte) (s : State)

@[simp] theorem stored_fs : (stored b s).fs = s.fs := by rw [stored_eq]
@[simp] theorem stored_idx : (stored b s).idx = s.idx := by rw [stored_eq]
@[simp] theorem stored_buf : (stored b s).buf = Memory.write s.buf s.idx.val b := by rw [stored_eq]
@[simp] theorem stored_short : (stored b s).short = shortAfter b s := by rw [stored_eq]
@[simp] theorem stored_dlen : (stored b s).dlen = dlenAfter (shortAfter b s) s.idx.val s.dlen b := by rw [stored_eq]
@[simp] theorem stored_crc8r : (stored b s).crc8r = crcAfter b s := by rw [stored_eq]
@[simp] theorem stored_pbuf : (stored b s).pbuf = s.pbuf := by rw [stored_eq]
@[simp] theorem stored_plen : (stored b s).plen = s.plen := by rw [stored_eq]
@[simp] theorem stored_prdy : (stored b s).prdy = s.prdy := by rw [stored_eq]
@[simp] theorem stored_ovr : (stored b s).ovr = s.ovr := by rw [stored_eq]

end

/-- IDX stays inside the 1000 bytes of BUF. -/
theorem idx_lt_pktMax (s : State) : s.idx.val < Config.pktMax :=
  Nat.lt_succ_of_lt s.idx.isLt

/-- A byte at an offset other than COFF never rejects the frame (R128). -/
theorem headerBad_of_ne {b : Byte} {s : State} (h : s.idx.val ≠ coff s.short) : headerBad b s = false := by
  simp [headerBad, h]

/-- A byte at COFF is accepted only if it is CRC8R and the declared length leaves room for the CRC16 (R128). -/
theorem headerBad_eq_false {b : Byte} {s : State} (hb : headerBad b s = false) (h : s.idx.val = coff s.short) :
    b = s.crc8r ∧ coff s.short + 3 ≤ s.dlen.toNat := by
  simpa [headerBad, h] using hb

/-! ## One FEED -/

/-- In SEEKING a byte other than the marker is discarded (R125). -/
theorem seekByte_of_ne {b : Byte} (h : b ≠ Config.marker) (s : State) : seekByte b s = s := by
  simp [seekByte, h]

/-- In SEEKING the marker opens a frame (R125). -/
theorem seekByte_marker (s : State) :
    seekByte Config.marker s =
      { s with buf := Memory.write s.buf 0 Config.marker, crc8r := crc8Step Config.crc8Init Config.marker, short := false,
               dlen := 0, idx := 1, fs := .framing } := by
  simp [seekByte]

/-- What a FEED does to the state: a byte in SEEKING is discarded or opens a frame; a byte in FRAMING is stored, and the frame
is then abandoned, completed or continued. -/
theorem feedByte_cases (b : Byte) (s : State) :
    (s.fs = .seeking ∧ (feedByte b s).1 = s) ∨
    (s.fs = .seeking ∧ (feedByte b s).1 = seekByte Config.marker s) ∨
    (s.fs = .framing ∧ (feedByte b s).1 = abandon (stored b s)) ∨
    (s.fs = .framing ∧ headerBad b (stored b s) = false ∧ coff (shortAfter b s) < s.idx.val ∧
      s.idx.val + 1 = (stored b s).dlen.toNat ∧ (feedByte b s).1 = completeFrame (s.idx.val + 1) (stored b s)) ∨
    (s.fs = .framing ∧ headerBad b (stored b s) = false ∧
      ¬ (coff (shortAfter b s) < s.idx.val ∧ s.idx.val + 1 = (stored b s).dlen.toNat) ∧
      ∃ i : Fin Config.frameCap, i.val = s.idx.val + 1 ∧ (feedByte b s).1 = { stored b s with idx := i }) := by
  cases hf : s.fs with
  | seeking =>
    rw [feedByte_seeking hf]
    by_cases hb : b = Config.marker
    · exact .inr (.inl ⟨rfl, by rw [hb]⟩)
    · exact .inl ⟨rfl, seekByte_of_ne hb s⟩
  | framing =>
    rw [feedByte_framing hf]
    obtain ⟨-, e⟩ | ⟨hb, hc, hn, e⟩ | ⟨-, -, -, e⟩ | ⟨hb, hc, -, i, hi, e⟩ := frameByte_cases b s
    · exact .inr (.inr (.inl ⟨rfl, by rw [e]⟩))
    · exact .inr (.inr (.inr (.inl ⟨rfl, hb, stored_short b s ▸ hc, hn, by rw [e]⟩)))
    · exact .inr (.inr (.inl ⟨rfl, by rw [e]⟩))
    · exact .inr (.inr (.inr (.inr ⟨rfl, hb, stored_short b s ▸ hc, i, hi, by rw [e]⟩)))

/-! ## A byte before the header CRC8 -/

/-- A byte before COFF neither rejects, completes nor overruns the frame. -/
theorem frameByte_of_lt_coff {b : Byte} {s : State} (h : s.idx.val < coff (shortAfter b s)) :
    ∃ i : Fin Config.frameCap, i.val = s.idx.val + 1 ∧
      frameByte b s = ({ stored b s with idx := i }, feedResult .incomplete none []) := by
  have good : headerBad b (stored b s) = false := headerBad_of_ne (by simpa using Nat.ne_of_lt h)
  have hle := coff_le (shortAfter b s)
  obtain ⟨hbad, -⟩ | ⟨-, hc, -⟩ | ⟨-, -, hcap, -⟩ | ⟨-, -, -, i, hi, e⟩ := frameByte_cases b s
  · simp [good] at hbad
  · rw [stored_short] at hc; omega
  · simp only [Config.frameCap] at hcap; omega
  · exact ⟨i, hi, e⟩

theorem crcAfter_of_lt {b : Byte} {s : State} (h : s.idx.val < coff (shortAfter b s)) :
    crcAfter b s = crc8Step s.crc8r b := by
  simp [crcAfter, h]

/-- A byte that is no length byte leaves DLEN (R25). -/
theorem dlenAfter_of_not_length {short : Bool} {i : Nat}
    (h : (short = true ∧ i ≠ 2) ∨ (short = false ∧ i ≠ 4 ∧ i ≠ 5)) (d : BitVec 16) (b : Byte) : dlenAfter short i d b = d := by
  obtain ⟨rfl, h2⟩ | ⟨rfl, h4, h5⟩ := h
  · simp [dlenAfter, h2]
  · simp [dlenAfter, h4, h5]

@[simp] theorem dlenAfter_short (d : BitVec 16) (b : Byte) : dlenAfter true 2 d b = b.setWidth 16 := rfl

@[simp] theorem dlenAfter_long_low (d : BitVec 16) (b : Byte) : dlenAfter false 4 d b = b.setWidth 16 := rfl

/-- The second length byte of a long frame is the field's high byte. -/
theorem dlenAfter_long_high (lo b : Byte) : dlenAfter false 5 (lo.setWidth 16) b = field16 lo b :=
  or_shift_eq_field16 lo b

/-- A 16-bit value below 256 is the zero extension of its low byte. -/
theorem setWidth_lo8 {d : BitVec 16} (h : d.toNat < 256) : (lo8 d).setWidth 16 = d := by
  apply BitVec.eq_of_toNat_eq
  rw [BitVec.toNat_setWidth, lo8_toNat]
  omega

theorem dlenAfter_long_high_toNat {d : BitVec 16} (h : d.toNat < 256) (b : Byte) :
    (dlenAfter false 5 d b).toNat = d.toNat + 256 * b.toNat := by
  have hlo : (lo8 d).toNat = d.toNat := by rw [lo8_toNat]; omega
  calc (dlenAfter false 5 d b).toNat
      = (dlenAfter false 5 ((lo8 d).setWidth 16) b).toNat := by rw [setWidth_lo8 h]
    _ = d.toNat + 256 * b.toNat := by rw [dlenAfter_long_high, field16_toNat, hlo]

/-- Settles O33: before COFF the byte is only stored, and each clause is the field of the stored state it speaks of. -/
theorem feedStoresHeaderBytes : Obligations.FeedStoresHeaderBytes := by
  intro s b hwf hf i short hi
  have hs : shortAfter b s = short := rfl
  obtain ⟨j, hj, e⟩ := frameByte_of_lt_coff (b := b) (s := s) hi
  refine ⟨{ stored b s with idx := j, res := feedResult .incomplete none [] }, by rw [exec_feed, feedByte_framing hf, e],
    by simpa using hf, hj, stored_short b s, (stored_crc8r b s).trans (crcAfter_of_lt hi), ?_, ?_, ?_, ?_, ?_, ?_, ?_, ?_, rfl⟩
  · intro hshort h2
    simp [hs, hshort, show s.idx.val = 2 from h2, -BitVec.toNat_setWidth, BitVec.toNat_setWidth_of_le]
  · intro hshort h4
    simp [hs, hshort, show s.idx.val = 4 from h4, -BitVec.toNat_setWidth, BitVec.toNat_setWidth_of_le]
  · intro hshort h5 hd
    simp [hs, hshort, show s.idx.val = 5 from h5, dlenAfter_long_high_toNat hd]
  · intro h
    exact (stored_dlen b s).trans (dlenAfter_of_not_length (hs ▸ h) _ _)
  · simp only [stored_buf]
    exact Memory.read_write_self hwf.1 _ _
  · intro a ha
    simp only [stored_buf]
    exact Memory.read_write_ne ha _ _
  · exact ⟨stored_plen b s, stored_prdy b s, stored_ovr b s, fun a => by simp⟩
  · rw [stored_eq]; exact ⟨fun _ => rfl, rfl, rfl, rfl⟩

end Sys2Proof.Machine
end

