-- ==== Sys2Proof/Proofs/FramerInvariant.lean ====
section
/-! PROOFS. What every operation keeps of the memories and of the framer (spec/20_memory.md R60, spec/10_state.md R20..R27). A
byte stored in FRAMING keeps each clause of `InFlight` at IDX + 1; the framer's invariant and the completed frame of R126 are
both read off from these clauses. -/

namespace Sys2Proof.Machine

/-! ## The canonical memories -/

/-- A FEED keeps both memories canonical: it writes below offset 1000 and copies at most 999 bytes. -/
theorem feedByte_keeps_memoryInv (b : Byte) {s : State} (h : MemoryInv s) : MemoryInv (feedByte b s).1 := by
  have hw : Memory.wf (Memory.write s.buf s.idx.val b) = true := Memory.wf_write h.1 (idx_lt_pktMax s) b
  obtain ⟨-, e⟩ | ⟨-, e⟩ | ⟨-, e⟩ | ⟨-, -, -, -, e⟩ | ⟨-, -, -, i, -, e⟩ := feedByte_cases b s <;> rw [e]
  · exact h
  · rw [seekByte_marker]; exact ⟨Memory.wf_write h.1 (by decide) _, h.2⟩
  · exact ⟨by simpa [abandon] using hw, by simpa [abandon] using h.2⟩
  · refine ⟨by simpa [completeFrame] using hw, ?_⟩
    simp only [completeFrame, stored_pbuf]
    exact Memory.wf_copyFrom h.2 (idx_lt_pktMax s)
  · exact ⟨by simpa using hw, by simpa using h.2⟩

/-- Every operation keeps both memories canonical. -/
theorem exec_keeps_memoryInv {i : Instr} {s t : State} (hs : MemoryInv s) (h : exec i s = .next t) : MemoryInv t := by
  obtain ⟨b, -, rfl⟩ | ⟨hbuf, hpbuf, -⟩ := exec_framer_cases h
  · exact feedByte_keeps_memoryInv b hs
  · rw [MemoryInv, hbuf, hpbuf]; exact hs

/-! ## FS = SEEKING ⇔ IDX = 0 -/

/-- A FEED keeps R27: a frame goes on with IDX past 0, and an abandoned or completed one leaves IDX at 0. -/
theorem feedByte_keeps_phase (b : Byte) {s : State} (h : s.fs = .seeking ↔ s.idx.val = 0) :
    (feedByte b s).1.fs = .seeking ↔ (feedByte b s).1.idx.val = 0 := by
  obtain ⟨-, e⟩ | ⟨-, e⟩ | ⟨-, e⟩ | ⟨-, -, -, -, e⟩ | ⟨hf, -, -, i, hi, e⟩ := feedByte_cases b s <;> rw [e]
  · exact h
  · simp [seekByte_marker]
  · simp [abandon]
  · simp [completeFrame]
  · simp [hf, hi]

/-- Settles O12: FEED keeps R27, and every other operation leaves FS and IDX or returns them to SEEKING and 0. -/
theorem seekingIffIndexZeroKept : Obligations.SeekingIffIndexZeroKept := by
  intro i s t hs h
  obtain ⟨b, -, rfl⟩ | ⟨-, -, -, ⟨hfs, hidx, -⟩ | ⟨hfs, hidx⟩, -⟩ := exec_framer_cases h
  · exact feedByte_keeps_phase b hs
  · rw [hfs, hidx]; exact hs
  · simp [hfs, hidx]

/-! ## A byte stored in an in-flight frame -/

/-- The declared length takes in the length bytes one at a time (R25, R124). -/
theorem declaredSoFar_write {m : Memory} (hm : Memory.wf m = true) (short : Bool) (i : Nat) (b : Byte) :
    declaredSoFar (Memory.write m i b) short (i + 1) = dlenAfter short i (declaredSoFar m short i) b := by
  cases short with
  | true =>
    obtain hlt | rfl | hgt := Nat.lt_trichotomy i 2
    · simp [declaredSoFar, dlenAfter, show ¬ 2 < i + 1 by omega, show ¬ 2 < i by omega, show i ≠ 2 by omega]
    · simp [declaredSoFar, Memory.read_write hm]
    · simp [declaredSoFar, dlenAfter, Memory.read_write hm, hgt, show 2 < i + 1 by omega, show i ≠ 2 by omega,
        show 2 ≠ i by omega]
  | false =>
    by_cases hlt : i < 4
    · simp [declaredSoFar, dlenAfter, show ¬ 5 < i + 1 by omega, show ¬ 4 < i + 1 by omega, show ¬ 5 < i by omega,
        show ¬ 4 < i by omega, show i ≠ 4 by omega, show i ≠ 5 by omega]
    · obtain rfl | rfl | hgt : i = 4 ∨ i = 5 ∨ 5 < i := by omega
      · simp [declaredSoFar, Memory.read_write hm]
      · simp [declaredSoFar, Memory.read_write hm, dlenAfter_long_high]
      · simp [declaredSoFar, dlenAfter, Memory.read_write hm, hgt, show 5 < i + 1 by omega, show i ≠ 4 by omega,
          show i ≠ 5 by omega, show 4 ≠ i by omega, show 5 ≠ i by omega]

/-- Before the length field nothing is declared, whatever the variant. -/
theorem declaredSoFar_of_le_two (m : Memory) (short : Bool) {i : Nat} (h : i ≤ 2) : declaredSoFar m short i = 0 := by
  cases short
  · simp [declaredSoFar, show ¬ 5 < i by omega, show ¬ 4 < i by omega]
  · simp [declaredSoFar, show ¬ 2 < i by omega]

/-- A write at `n` extends the first `n` bytes by the byte written. -/
theorem bytes_write_succ {m : Memory} (hm : Memory.wf m = true) {n : Nat} (hn : n < Config.pktMax) (b : Byte) :
    Memory.bytes (Memory.write m n b) (n + 1) = Memory.bytes m n ++ [b] := by
  rw [Memory.bytes_succ hn, Memory.read_write_self hm]
  congr 1
  exact Memory.bytes_congr fun a ha => Memory.read_write_ne (by omega) b m

/-- A write at or past `n` leaves the first `n` bytes. -/
theorem bytes_write_of_le {m : Memory} {n i : Nat} (h : n ≤ i) (b : Byte) :
    Memory.bytes (Memory.write m i b) n = Memory.bytes m n :=
  Memory.bytes_congr fun a ha => Memory.read_write_ne (by omega) b m

section
variable {b : Byte} {s : State} (hwf : Memory.wf s.buf = true) (hin : InFlight s)
include hin

/-- The marker at offset 0 stays. -/
theorem stored_marker (hpos : s.idx.val ≠ 0) : (stored b s).buf.read 0 = Config.marker := by
  rw [stored_buf, Memory.read_write_ne (Ne.symm hpos)]
  exact hin.marker

include hwf

/-- SHORT is bit 7 of the header byte, stored now or before (R24). -/
theorem stored_variant (hpos : s.idx.val ≠ 0) : (stored b s).short = ((stored b s).buf.read 1).msb := by
  rw [stored_short, stored_buf, Memory.read_write hwf]
  by_cases h1 : s.idx.val = 1
  · simp [shortAfter, h1]
  · rw [shortAfter_of_ne h1, if_neg (Ne.symm h1)]
    exact hin.variant (by omega)

/-- DLEN is what the length bytes up to the stored one give (R25). -/
theorem stored_length :
    (stored b s).dlen = declaredSoFar (stored b s).buf (stored b s).short (s.idx.val + 1) := by
  have hd : s.dlen = declaredSoFar s.buf (shortAfter b s) s.idx.val := by
    by_cases h1 : s.idx.val = 1
    · rw [hin.length, declaredSoFar_of_le_two _ _ (by omega), declaredSoFar_of_le_two _ _ (by omega)]
    · rw [shortAfter_of_ne h1]; exact hin.length
  rw [stored_dlen, stored_buf, stored_short, declaredSoFar_write hwf, ← hd]

/-- CRC8R is the CRC8 of the header bytes up to the stored one (R23). -/
theorem stored_headerCrc :
    (stored b s).crc8r = crc8 ((stored b s).buf.bytes (min (s.idx.val + 1) (coff (stored b s).short))) := by
  simp only [stored_crc8r, stored_buf, stored_short]
  have h3 := coff_pos s.short
  by_cases h : s.idx.val < coff (shortAfter b s)
  · have hlt : s.idx.val < coff s.short := by
      by_cases h1 : s.idx.val = 1
      · omega
      · rwa [shortAfter_of_ne h1] at h
    rw [crcAfter_of_lt h, hin.headerCrc, Nat.min_eq_left hlt.le, Nat.min_eq_left h,
      bytes_write_succ hwf (idx_lt_pktMax s), crc8_append]
  · have h := Nat.not_lt.mp h
    have hs : shortAfter b s = s.short := shortAfter_of_ne (by have := coff_pos (shortAfter b s); omega)
    rw [crcAfter_of_le h, hin.headerCrc, hs]
    rw [hs] at h
    rw [Nat.min_eq_right h, Nat.min_eq_right (by omega), bytes_write_of_le h]

/-- Once the header CRC8 is stored and has not rejected the frame, it is CRC8R, and the declared length leaves room for the
CRC16 and was not reached before (R126, R128). -/
theorem stored_accepted (good : headerBad b (stored b s) = false) (hc : coff (stored b s).short ≤ s.idx.val) :
    (stored b s).buf.read (coff (stored b s).short) = (stored b s).crc8r ∧
      coff (stored b s).short + 3 ≤ (stored b s).dlen.toNat ∧ s.idx.val < (stored b s).dlen.toNat := by
  obtain heq | hlt := Nat.eq_or_lt_of_le hc
  · obtain ⟨hb, hlen⟩ := headerBad_eq_false good (by rw [stored_idx, heq])
    refine ⟨?_, hlen, by omega⟩
    rw [← hb, heq, stored_buf, Memory.read_write_self hwf]
  · have hc' : coff (shortAfter b s) ≤ s.idx.val := stored_short b s ▸ hc
    have hs : shortAfter b s = s.short := shortAfter_of_ne (by have := coff_pos (shortAfter b s); omega)
    rw [stored_short, hs] at hlt
    obtain ⟨hcrc, hlen, hidx⟩ := hin.accepted hlt
    rw [stored_buf, stored_crc8r, stored_dlen, stored_short, dlenAfter_of_gt hc', crcAfter_of_le hc', hs,
      Memory.read_write_ne (by omega)]
    exact ⟨hcrc, hlen, hidx⟩

/-- A stored byte that neither rejects nor completes the frame leaves it in flight, one byte longer. -/
theorem inFlight_stored (hpos : s.idx.val ≠ 0) (good : headerBad b (stored b s) = false)
    (more : ¬ (coff (shortAfter b s) < s.idx.val ∧ s.idx.val + 1 = (stored b s).dlen.toNat)) {i : Fin Config.frameCap}
    (hi : i.val = s.idx.val + 1) : InFlight { stored b s with idx := i } where
  marker := stored_marker hin hpos
  variantBefore h1 := absurd hpos (by rw [hi] at h1; omega)
  variant _ := stored_variant hwf hin hpos
  length := by rw [hi]; exact stored_length hwf hin
  headerCrc := by rw [hi]; exact stored_headerCrc hwf hin
  accepted h := by
    rw [hi] at h ⊢
    obtain ⟨hcrc, hlen, hidx⟩ := stored_accepted hwf hin good (Nat.le_of_lt_succ h)
    rw [← stored_short] at more
    have hne : s.idx.val + 1 ≠ (stored b s).dlen.toNat := by omega
    exact ⟨hcrc, hlen, Nat.lt_of_le_of_ne hidx hne⟩

end

/-- The marker alone is an in-flight frame (R125). -/
theorem inFlight_opened {s : State} (hwf : Memory.wf s.buf = true) : InFlight (seekByte Config.marker s) := by
  rw [seekByte_marker]
  exact {
    marker := Memory.read_write_self hwf 0 _
    variantBefore := fun _ => rfl
    variant := fun h => absurd (show 1 < 1 from h) (by decide)
    length := rfl
    headerCrc := by
      change crc8Step Config.crc8Init Config.marker = crc8 (Memory.bytes (Memory.write s.buf 0 Config.marker) (0 + 1))
      rw [bytes_write_succ hwf (by decide), crc8_append]
      rfl
    accepted := fun h => absurd (show coff false < 1 from h) (by decide) }

/-! ## The framer's invariant -/

/-- With no frame in flight the invariant says nothing more. -/
theorem framerInv_of_seeking {s : State} (hfs : s.fs = .seeking) (hidx : s.idx = 0) : FramerInv s :=
  ⟨by simp [hfs, hidx], fun h => by simp [hfs] at h⟩

/-- The invariant is about the framer's registers alone. -/
theorem framerInv_of_sameFramer {s t : State} (hs : FramerInv s) (h : SameFramer s t) : FramerInv t := by
  refine ⟨by rw [h.fs, h.idx]; exact hs.phase, fun hf => ?_⟩
  have hin := hs.inFlight (h.fs ▸ hf)
  have hbytes : ∀ n, Memory.bytes t.buf n = Memory.bytes s.buf n := fun n => Memory.bytes_congr fun a _ => h.buf a
  exact {
    marker := by rw [h.buf]; exact hin.marker
    variantBefore := by rw [h.idx, h.short]; exact hin.variantBefore
    variant := by rw [h.idx, h.short, h.buf]; exact hin.variant
    length := by simp only [h.dlen, h.short, h.idx, declaredSoFar, h.buf 2, h.buf 4, h.buf 5]; exact hin.length
    headerCrc := by rw [h.crc8r, h.idx, h.short, hbytes]; exact hin.headerCrc
    accepted := by rw [h.short, h.idx, h.buf, h.crc8r, h.dlen]; exact hin.accepted }

/-- The ports and RES are outside the framer. -/
theorem framerInv_withPorts {s : State} (hs : FramerInv s) (cmd : Request) (inbox : List Request) (res : Result) :
    FramerInv { s with cmd := cmd, inbox := inbox, res := res } :=
  framerInv_of_sameFramer hs ⟨rfl, rfl, rfl, rfl, rfl, fun _ => rfl⟩

/-- A FEED keeps the framer's invariant. -/
theorem feedByte_keeps_framerInv (b : Byte) {s : State} (hm : MemoryInv s) (hs : FramerInv s) :
    FramerInv (feedByte b s).1 := by
  refine ⟨feedByte_keeps_phase b hs.phase, ?_⟩
  obtain ⟨-, e⟩ | ⟨-, e⟩ | ⟨-, e⟩ | ⟨-, -, -, -, e⟩ | ⟨hf, good, more, i, hi, e⟩ := feedByte_cases b s <;> rw [e]
  · exact hs.inFlight
  · exact fun _ => inFlight_opened hm.1
  · exact fun h => by simp [abandon] at h
  · exact fun h => by simp [completeFrame] at h
  · intro _
    have hpos : s.idx.val ≠ 0 := fun h0 => by simp [hs.phase.mpr h0] at hf
    exact inFlight_stored hm.1 (hs.inFlight hf) hpos good more hi

/-- Every operation keeps the framer's invariant. -/
theorem exec_keeps_framerInv {i : Instr} {s t : State} (hm : MemoryInv s) (hs : FramerInv s) (h : exec i s = .next t) :
    FramerInv t := by
  obtain ⟨b, -, rfl⟩ | ⟨hbuf, -, -, ⟨hfs, hidx, hcrc, hshort, hdlen⟩ | ⟨hfs, hidx⟩, -⟩ := exec_framer_cases h
  · exact framerInv_withPorts (feedByte_keeps_framerInv b hm hs) _ _ _
  · exact framerInv_of_sameFramer hs ⟨hfs, hidx, hcrc, hshort, hdlen, fun _ => by rw [hbuf]⟩
  · exact framerInv_of_seeking hfs hidx

/-- Settles O13, from what every operation keeps: taking a request and writing RES leave the framer alone. -/
theorem stepKeepsFramerInvariant : Obligations.StepKeepsFramerInvariant := by
  intro s t hm hs h
  exact (step_preserves (P := fun u => MemoryInv u ∧ FramerInv u)
    (fun _ _ _ ⟨hum, huf⟩ he => ⟨exec_keeps_memoryInv hum he, exec_keeps_framerInv hum huf he⟩)
    (fun u r rest ⟨hum, huf⟩ => ⟨hum, framerInv_withPorts huf r rest u.res⟩)
    (fun u r ⟨hum, huf⟩ => ⟨hum, framerInv_withPorts huf u.cmd u.inbox r⟩) ⟨hm, hs⟩ h).2

end Sys2Proof.Machine
end

