-- ==== Sys2Proof/Proofs/StageInvariant.lean ====
section
/-! PROOFS. What every operation keeps of the received-packet stage (spec/10_state.md R26): the frame that R126 completes is
one that spec/41_packet_codec.md R151 calls delivered, and no other operation writes PBUF or PLEN. -/

namespace Sys2Proof.Machine

/-! ## The completed frame -/

/-- The bytes of the completed frame, past the header CRC8 and as long as declared, are a delivered frame (R151). -/
theorem delivered_of_stored {b : Byte} {s : State} (hwf : Memory.wf s.buf = true) (hin : InFlight s)
    (good : headerBad b (stored b s) = false) (hc : coff (stored b s).short < s.idx.val)
    (hn : s.idx.val + 1 = (stored b s).dlen.toNat) : Delivered ((stored b s).buf.bytes (s.idx.val + 1)) := by
  have h3 := coff_pos (stored b s).short
  have hidx := idx_lt s
  have hmax : s.idx.val + 1 ≤ Config.pktMax := idx_lt_pktMax s
  have hpos : s.idx.val ≠ 0 := by omega
  obtain ⟨hread, hlen, -⟩ := stored_accepted hwf hin good hc.le
  have hbyte : ∀ j, j < s.idx.val + 1 → byteAt ((stored b s).buf.bytes (s.idx.val + 1)) j = (stored b s).buf.read j :=
    fun j hj => Memory.byteAt_bytes hmax hj
  have hmsb : (byteAt ((stored b s).buf.bytes (s.idx.val + 1)) 1).msb = (stored b s).short := by
    rw [hbyte 1 (by omega), ← stored_variant hwf hin hpos]
  have hcoff : buildCoff ((stored b s).buf.bytes (s.idx.val + 1)) = coff (stored b s).short := by
    rw [buildCoff_eq, hmsb]; rfl
  have hlength : ((stored b s).buf.bytes (s.idx.val + 1)).length = s.idx.val + 1 := by
    rw [Memory.length_bytes, Nat.min_eq_left hmax]
  refine ⟨?_, ?_, ?_, ?_, ?_⟩
  · rw [hbyte 0 (by omega), stored_marker hin hpos]
  · rw [hcoff, hlength]; omega
  · rw [hlength]; exact s.idx.isLt
  · rw [hcoff, hbyte _ (by omega), hread, stored_headerCrc hwf hin, Nat.min_eq_right (by omega),
      Memory.take_bytes (by omega)]
  · rw [hmsb, hlength]
    have hdecl := stored_length (b := b) hwf hin
    cases hs : (stored b s).short with
    | true =>
      rw [hs] at hc hdecl
      have h2 : 3 < s.idx.val := hc
      rw [if_pos rfl, hbyte 2 (by omega), hn, hdecl, declaredSoFar, if_pos rfl, if_pos (by omega),
        BitVec.toNat_setWidth_of_le (by omega)]
    | false =>
      rw [hs] at hc hdecl
      have h6 : 6 < s.idx.val := hc
      rw [if_neg (by decide), rd16, hbyte 4 (by omega), hbyte 5 (by omega), hn, hdecl, declaredSoFar,
        if_neg (by decide), if_pos (by omega)]

/-! ## The stage's invariant -/

/-- The invariant is about the stage's registers alone. -/
theorem stageInv_of_sameStage {s t : State} (hs : StageInv s) (h : SameStage s t) : StageInv t where
  fits := by rw [h.plen]; exact hs.fits
  staged := by
    rw [h.plen, Memory.bytes_congr fun a _ => h.pbuf a]
    exact hs.staged
  ready := by rw [h.plen, h.prdy]; exact hs.ready
  overrun := by rw [h.ovr, h.prdy]; exact hs.overrun

/-- The ports and RES are outside the stage. -/
theorem stageInv_withPorts {s : State} (hs : StageInv s) (cmd : Request) (inbox : List Request) (res : Result) :
    StageInv { s with cmd := cmd, inbox := inbox, res := res } :=
  stageInv_of_sameStage hs ⟨rfl, rfl, rfl, fun _ => rfl⟩

/-- Completing a frame stages it: PBUF's first bytes become BUF's, and PLEN its length (R126). -/
theorem stageInv_completeFrame {n : Nat} {s : State} (hpb : Memory.wf s.pbuf = true) (hpos : n ≠ 0)
    (hn : n ≤ Config.frameCap) (hd : Delivered (s.buf.bytes n)) : StageInv (completeFrame n s) := by
  have hplen : (BitVec.ofNat 16 n).toNat = n := by
    simp only [Config.frameCap] at hn
    rw [BitVec.toNat_ofNat, Nat.mod_eq_of_lt (by omega)]
  have hbytes : (Memory.copyFrom s.pbuf s.buf n).bytes n = s.buf.bytes n :=
    Memory.bytes_congr fun a ha => by rw [Memory.read_copyFrom hpb a (Nat.le_succ_of_le hn), if_pos ha]
  exact {
    fits := by simpa only [completeFrame, hplen] using hn
    staged := fun _ => by simpa only [completeFrame, hplen, hbytes] using hd
    ready := fun _ h0 => hpos (by rw [← hplen, show BitVec.ofNat 16 n = 0 from h0]; rfl)
    overrun := fun _ => rfl }

/-- A FEED keeps the stage's invariant. -/
theorem feedByte_keeps_stageInv (b : Byte) {s : State} (hm : MemoryInv s) (hf : FramerInv s) (hs : StageInv s) :
    StageInv (feedByte b s).1 := by
  obtain ⟨-, e⟩ | ⟨-, e⟩ | ⟨-, e⟩ | ⟨hfs, good, hc, hn, e⟩ | ⟨-, -, -, i, -, e⟩ := feedByte_cases b s <;> rw [e]
  · exact hs
  · rw [seekByte_marker]; exact stageInv_of_sameStage hs ⟨rfl, rfl, rfl, fun _ => rfl⟩
  · rw [stored_eq]; exact stageInv_of_sameStage hs ⟨rfl, rfl, rfl, fun _ => rfl⟩
  · rw [← stored_short] at hc
    exact stageInv_completeFrame (by rw [stored_pbuf]; exact hm.2) (Nat.succ_ne_zero _) s.idx.isLt
      (delivered_of_stored hm.1 (hf.inFlight hfs) good hc hn)
  · rw [stored_eq]; exact stageInv_of_sameStage hs ⟨rfl, rfl, rfl, fun _ => rfl⟩

/-- Every operation keeps the stage's invariant: outside FEED, PBUF and PLEN stay and PRDY and OVR stay or are cleared. -/
theorem exec_keeps_stageInv {i : Instr} {s t : State} (hm : MemoryInv s) (hf : FramerInv s) (hs : StageInv s)
    (h : exec i s = .next t) : StageInv t := by
  obtain ⟨b, -, rfl⟩ | ⟨-, hpbuf, hplen, -, ⟨hprdy, hovr⟩ | ⟨hprdy, hovr⟩⟩ := exec_framer_cases h
  · exact stageInv_withPorts (feedByte_keeps_stageInv b hm hf hs) _ _ _
  · exact stageInv_of_sameStage hs ⟨hplen, hprdy, hovr, fun _ => by rw [hpbuf]⟩
  · exact {
      fits := by rw [hplen]; exact hs.fits
      staged := by rw [hplen, hpbuf]; exact hs.staged
      ready := by simp [hprdy]
      overrun := by simp [hovr] }

/-- Settles O14, from what every operation keeps: taking a request and writing RES leave the framer and the stage alone. -/
theorem stepKeepsStagedFrameValid : Obligations.StepKeepsStagedFrameValid := by
  intro s t hm hf hs h
  exact (step_preserves (P := fun u => MemoryInv u ∧ FramerInv u ∧ StageInv u)
    (fun _ _ _ ⟨hum, huf, hus⟩ he =>
      ⟨exec_keeps_memoryInv hum he, exec_keeps_framerInv hum huf he, exec_keeps_stageInv hum huf hus he⟩)
    (fun u r rest ⟨hum, huf, hus⟩ => ⟨hum, framerInv_withPorts huf r rest u.res, stageInv_withPorts hus r rest u.res⟩)
    (fun u r ⟨hum, huf, hus⟩ => ⟨hum, framerInv_withPorts huf u.cmd u.inbox r, stageInv_withPorts hus u.cmd u.inbox r⟩)
    ⟨hm, hf, hs⟩ h).2.2

end Sys2Proof.Machine
end

