-- ==== Sys2Proof/Proofs/ChannelRanges.lean ====
section
/-! PROOFS. What every operation keeps of a channel's registers (spec/10_state.md R29, R32, R34, R37), writer by writer, and
SET_MOTION's result (spec/43_motor_pid.md R228). -/

namespace Sys2Proof.Machine

/-! ## The writers of a channel -/

/-- A cleared integral is 0.0. -/
theorem within_cleared : Within (F32.negate Config.iLim) Config.iLim Pid.cleared.i := by
  unfold Within; decide +kernel

/-- A step clamps the integral (R221, R222). -/
theorem within_pidAfter (num : Config.Num) (g : Config.Gains) (p : Pid) (e dt : F32) :
    Within (F32.negate Config.iLim) Config.iLim (pidAfter num g p e dt).i :=
  within_clampTo_iLim (num.add p.i (num.mul (num.mul g.ki e) dt))

/-- A controller whose integral is in range may replace either one. -/
theorem channelInv_setPid {k : Channel} (hk : ChannelInv k) (sel : Sel) {p : Pid}
    (hp : Within (F32.negate Config.iLim) Config.iLim p.i) : ChannelInv (k.setPid sel p) := by
  cases sel with
  | speed => exact { hk with speedIntegral := hp }
  | pressure => exact { hk with pressureIntegral := hp }

/-- PWM takes shaped values. -/
theorem channelInv_drive {k : Channel} (hk : ChannelInv k) (num : Config.Num) (x : F32) : ChannelInv (drive num x k) :=
  { hk with pwmLow := (shape_range num x k.pwmZero).1, pwmHigh := (shape_range num x k.pwmZero).2 }

/-- A driven controller's integral and the PWM it drives are in range. -/
theorem channelInv_drivePid {k : Channel} (hk : ChannelInv k) (p : Config.Params) (sel : Sel) (e : F32) :
    ChannelInv (drivePid p sel e k) :=
  channelInv_drive (channelInv_setPid hk sel (within_pidAfter p.num (gainsOf p sel) (k.pid sel) e k.dt)) _ _

/-- PWM may be set to 0. -/
theorem channelInv_pwm_zero {k : Channel} (hk : ChannelInv k) : ChannelInv { k with pwm := 0 } :=
  { hk with pwmLow := by simp, pwmHigh := by simp }

theorem channelInv_setMode {k : Channel} (hk : ChannelInv k) (m : Motion) : ChannelInv (setMode m k) := by
  obtain ⟨-, e⟩ | ⟨-, e⟩ := setMode_cases m k <;> rw [e]
  · exact hk
  · exact { hk with speedIntegral := within_cleared, pressureIntegral := within_cleared }

theorem channelInv_lawIdle {k : Channel} (hk : ChannelInv k) (p : Config.Params) (now : BitVec 64) :
    ChannelInv (lawIdle p now k) := by
  unfold lawIdle
  split
  · exact channelInv_drivePid hk _ _ _
  · split <;> exact channelInv_drive hk _ _

theorem channelInv_lawInUse {k : Channel} (hk : ChannelInv k) (p : Config.Params) : ChannelInv (lawInUse p k) := by
  have hlatch : ChannelInv { k with latch := latchAfter k.latch k.v } := { hk with }
  simp only [lawInUse]
  split
  · exact channelInv_drivePid hlatch _ _ _
  · exact channelInv_drive hlatch _ _

theorem channelInv_lawVelocity {k : Channel} (hk : ChannelInv k) (p : Config.Params) : ChannelInv (lawVelocity p k) := by
  have htravel : ChannelInv { k with ad := adAfter p.num k } := { hk with }
  unfold lawVelocity
  split
  · exact channelInv_pwm_zero (channelInv_setMode htravel .stop)
  · exact channelInv_drivePid htravel _ _ _

/-- Every output law keeps the ranges (R232). -/
theorem channelInv_applyLaw {k : Channel} (hk : ChannelInv k) (p : Config.Params) (lite : Bool) (now : BitVec 64) :
    ChannelInv (applyLaw p lite now k) := by
  unfold applyLaw
  cases k.motion with
  | stop => exact channelInv_pwm_zero (channelInv_setPid hk .speed within_cleared)
  | send => exact channelInv_drivePid hk _ _ _
  | slowSend => exact channelInv_drivePid hk _ _ _
  | pull => exact channelInv_drivePid hk _ _ _
  | pressureIdle => exact channelInv_lawIdle hk p now
  | pressureInUse => exact channelInv_lawInUse hk p
  | velocity => exact channelInv_lawVelocity hk p

/-- RUN keeps the ranges. -/
theorem channelInv_runChannel {k : Channel} (hk : ChannelInv k) (p : Config.Params) (lite : Bool) (now : BitVec 64) :
    ChannelInv (runChannel p lite now k) :=
  { channelInv_applyLaw hk p lite now with }

/-- SAMPLE sanitises V and classifies it into TENS. -/
theorem channelInv_sampleChannel {k : Channel} (hk : ChannelInv k) (p : Config.Params) (now : BitVec 64) (x : Sensors) :
    ChannelInv (sampleChannel p now x k) := by
  rw [sampleChannel_eq]
  exact { hk with voltage := within_sanitize x.vin, tensionOfVoltage := rfl }

/-- A finite operand that is not below 0.0 is at least 0.0. -/
theorem le_of_not_lt_of_isFinite {x : F32} (hx : x.isFinite = true) (h : F32.lt x Config.zero = false) :
    F32.le Config.zero x = true := by
  have h0 : Config.zero.isNaN = false := by decide
  have hn := F32.isNaN_of_isFinite hx
  exact F32.le_eq_true.mpr ⟨h0, hn, (F32.lt_eq_false hn h0).mp h⟩

/-! ## Every operation -/

/-- Replacing one channel by one in range keeps every channel in range. -/
theorem channelsInv_setChan {s : State} (hs : ChannelsInv s) (c : Fin Config.nch) {k : Channel} (hk : ChannelInv k) :
    ChannelsInv (s.setChan c k) := by
  intro d
  rw [State.chan_setChan]
  split
  · exact hk
  · exact hs d

/-- Every operation keeps every channel in range, by the writers that `exec_cases` names. -/
theorem exec_keeps_channelsInv {i : Instr} {s t : State} (hs : ChannelsInv s) (h : exec i s = .next t) : ChannelsInv t := by
  obtain ⟨r, rfl⟩ | ⟨b, -, rfl⟩ | ⟨-, e⟩ | ⟨-, e⟩ | ⟨l, -, e⟩ | ⟨-, e⟩ | ⟨ch, c, k, -, e, hk⟩ := exec_cases h
  · exact hs
  · rw [feedByte_frame]; exact hs
  · rw [e]; exact hs
  · rw [e]; exact hs
  · rw [e]; exact hs
  · intro c
    rw [e, State.chan_withRes, tickAll_chan]
    exact channelInv_runChannel (channelInv_sampleChannel (hs c) _ _ _) _ _ _
  · rw [e]
    refine channelsInv_setChan hs c (k := k) ?_
    obtain ⟨-, rfl⟩ | ⟨-, rfl⟩ | ⟨sel, -, rfl⟩ | ⟨sel, -, rfl⟩ | ⟨_, m, -, -, rfl⟩ | ⟨-, ha, hb, rfl⟩ | ⟨-, rfl⟩ |
      ⟨-, rfl⟩ | ⟨d, -, ha, hn, rfl⟩ := hk
    · exact channelInv_sampleChannel (hs c) _ _ _
    · exact channelInv_runChannel (hs c) _ _ _
    · exact channelInv_setPid (hs c) sel within_cleared
    · exact channelInv_setPid (hs c) sel (within_pidAfter _ _ _ _ _)
    · exact channelInv_setMode (hs c) m
    · have htargets : ChannelInv { s.chan c with tv := s.opA, td := s.opB, ad := Config.zero } :=
        { hs c with targetSpeedFinite := ha, targetDistanceFinite := hb }
      exact channelInv_setMode htargets .velocity
    · exact { hs c with }
    · exact { hs c with }
    · exact { hs c with pwmZeroFinite := ha, pwmZeroNonneg := le_of_not_lt_of_isFinite ha hn }

/-- Settles O15, from what every operation keeps: taking a request and writing RES leave the channels alone. -/
theorem stepKeepsChannelRanges : Obligations.StepKeepsChannelRanges := fun _ _ hs h =>
  step_preserves (fun _ _ _ => exec_keeps_channelsInv) (fun _ _ _ hs => hs) (fun _ _ hs => hs) hs h

/-! ## SET_MOTION -/

/-- Settles O47: each code stands for its mode, and SET_MOTION is the mode write of that mode. -/
theorem setMotionResult : Obligations.SetMotionResult := by
  intro s ch c hc p hp
  have hcode : Motion.ofCode p.1 = some p.2 := by revert p; decide
  rw [exec_setMotion hc s hcode]
  obtain ⟨hsame, e⟩ | ⟨hchange, e⟩ := setMode_cases p.2 (s.chan c) <;> rw [e]
  · exact ⟨fun h => absurd hsame h, fun _ => by rw [State.setChan_chan]⟩
  · exact ⟨fun _ => rfl, fun h => absurd h hchange⟩

end Sys2Proof.Machine
end

