-- ==== Sys2Proof/Proofs/SafeRuns.lean ====
section
/-! PROOFS. Every step answers a next state and keeps `Inv`, so every run does (spec/60_exceptions.md R274); the state after
reset meets `Inv` (spec/70_reset_and_hazards.md R300). -/

namespace Sys2Proof.Machine

/-! ## Every operation answers a next state -/

/-- A channel operation goes on when its body does: E_CHANNEL is a result too. -/
theorem withChannel_goes {ch : BitVec 3} {s : State} {k : Fin Config.nch → Host.Outcome State Fault Refusal}
    (hk : ∀ c, ∃ t, k c = .next t) : ∃ t, withChannel ch s k = .next t := by
  obtain ⟨c, -, e⟩ | ⟨-, e⟩ := withChannel_cases ch s k
  · rw [e]; exact hk c
  · exact ⟨_, e⟩

/-- Whichever of two results an operation ends with, it goes on. -/
theorem finish_ite_goes (p : Prop) [Decidable p] (r r' : Result) (s u : State) :
    ∃ t, (if p then finish r s else finish r' u) = .next t := by
  split <;> exact ⟨_, rfl⟩

/-- R274 for every operation: none faults and none is refused. -/
theorem exec_goes (i : Instr) (s : State) : ∃ t, exec i s = .next t := by
  cases i with
  | nop | feed _ | frmReset | rdpkt | rdfrm | tick | cfgDev _ => exact ⟨_, rfl⟩
  | crc8Calc | crc16Calc | parseLong | buildWithCrc | buildLong | identify | kindMotionShort _ | kindMotionLong _
  | kindOnlineDetect _ | kindReqX6 _ | kindNfcDetect _ | kindSetFilamentInfo _ | kindHeartbeat _ | kindShortOther _ _
  | kindMcOnline _ | kindReadFilamentInfo _ | kindSetFilamentInfoV2 _ | kindVersion _ | kindSerialNumber _
  | kindLongOther _ _ | kindNone _ | kindUnknown _ => exact finish_ite_goes _ _ _ s s
  | sample ch | run ch | pidClear ch _ | pwmShape ch | wrMeters ch | wrColor ch | rdCh ch =>
    simp only [exec, execSample, execRun, execPidClear, execPwmShape, execWrMeters, execWrColor, execRdCh]
    exact withChannel_goes fun _ => ⟨_, rfl⟩
  | pidStep ch _ | setVelocity ch | cfgCh ch _ =>
    simp only [exec, execPidStep, execSetVelocity, execCfgCh]
    exact withChannel_goes fun _ => finish_ite_goes _ _ _ _ _
  | setMotion ch mode =>
    simp only [exec, execSetMotion]
    refine withChannel_goes fun _ => ?_
    cases Motion.ofCode mode <;> exact ⟨_, rfl⟩

/-- R274 for every step. -/
theorem step_goes (s : State) : Goes s := by
  obtain ⟨-, e⟩ | ⟨r, rest, i, -, -, e⟩ | ⟨r, rest, d, -, -, e⟩ := step_cases s
  · exact ⟨s, e⟩
  · rw [Goes, e]; exact exec_goes i _
  · exact ⟨_, e⟩

/-! ## The whole invariant -/

/-- The invariants look neither at the ports nor at RES. -/
theorem inv_withPorts {s : State} (hs : Inv s) (cmd : Request) (inbox : List Request) (res : Result) :
    Inv { s with cmd := cmd, inbox := inbox, res := res } where
  memory := hs.memory
  framer := framerInv_withPorts hs.framer cmd inbox res
  stage := stageInv_withPorts hs.stage cmd inbox res
  channels := hs.channels

/-- Every operation keeps all the invariants. -/
theorem exec_keeps_inv {i : Instr} {s t : State} (hs : Inv s) (h : exec i s = .next t) : Inv t where
  memory := exec_keeps_memoryInv hs.memory h
  framer := exec_keeps_framerInv hs.memory hs.framer h
  stage := exec_keeps_stageInv hs.memory hs.framer hs.stage h
  channels := exec_keeps_channelsInv hs.channels h

/-- Every step keeps all the invariants. -/
theorem step_keeps_inv {s t : State} (hs : Inv s) (h : step s = .next t) : Inv t :=
  step_preserves (fun _ _ _ => exec_keeps_inv) (fun s r rest hs => inv_withPorts hs r rest s.res)
    (fun s r hs => inv_withPorts hs s.cmd s.inbox r) hs h

/-- Settles O18, by induction on the number of steps: each goes on and keeps the invariants. -/
theorem everyRunIsSafe : Obligations.EveryRunIsSafe := by
  intro k
  induction k with
  | zero => exact fun _ hs => hs
  | succ k ih =>
    intro s hs
    obtain ⟨t, ht⟩ := step_goes s
    exact ⟨hs, t, ht, ih t (step_keeps_inv hs ht)⟩

/-! ## Reset -/

/-- The idle setpoint 1.65 V lies in 0.0..3.3 V. -/
theorem within_vSet : Within Config.vMin Config.vMax Config.vSet := by
  unfold Within; decide +kernel

/-- A channel after reset is in range: 0.0 everywhere, and V at 1.65 V with its classification (R49). -/
theorem channelInv_reset : ChannelInv Channel.reset where
  speedIntegral := within_cleared
  pressureIntegral := within_cleared
  pwmLow := by decide
  pwmHigh := by decide
  voltage := within_vSet
  tensionOfVoltage := by decide +kernel
  pwmZeroFinite := by decide
  pwmZeroNonneg := F32.le_eq_true.mpr ⟨rfl, rfl, le_rfl⟩
  targetSpeedFinite := by decide
  targetDistanceFinite := by decide

/-- Settles O16: no byte listed, no frame in flight, no frame staged, and four channels as after reset. -/
theorem resetMeetsInvariants : Obligations.ResetMeetsInvariants where
  memory := ⟨Memory.wf_nil, Memory.wf_nil⟩
  framer := framerInv_of_seeking rfl rfl
  stage := ⟨by decide, fun h => absurd rfl h, nofun, nofun⟩
  channels c := by
    have hc : State.reset.chan c = Channel.reset := by simp [State.chan, State.reset]
    rw [hc]; exact channelInv_reset

end Sys2Proof.Machine
end

section
/-! PROOFS. Taking the next request (spec/20_memory.md R72), and the canonical form of the memories from step to step
(spec/20_memory.md R60, notes/assumptions/4.md). -/

namespace Sys2Proof.Machine

/-- Settles O5: the oldest request is fetched onto the ports and its word decides what runs; with none, nothing is fetched. -/
theorem stepTakesTheNextRequest : Obligations.StepTakesTheNextRequest := by
  refine ⟨fun s r rest i hin hdec => ?_, fun s hin => ?_⟩
  · have hfetched : fetched { s with cmd := r, inbox := rest } = .ok i := hdec
    simp only [step, fetch_cons hin, hfetched]
  · simp only [step, fetch_nil hin]

/-- Settles O11, from what every operation keeps: taking a request and writing RES leave both memories alone. -/
theorem stepKeepsMemoryCanonical : Obligations.StepKeepsMemoryCanonical := fun _ _ hs h =>
  step_preserves (fun _ _ _ => exec_keeps_memoryInv) (fun _ _ _ hm => hm) (fun _ _ hm => hm) hs h

end Sys2Proof.Machine
end

section
/-! PROOFS. Command words (spec/30_encoding.md R80, R84, R85): the fixed-zero test is the mask of a table row, so decoding a
word is finding the row of its low byte; and the encoder writes the very fields that the decoder reads. -/

namespace Sys2Proof.Machine

/-! ## The low bits of the immediate (R87) -/

/-- A short operand placed in the immediate leaves the bits above it zero. -/
theorem setWidth_and_not_low {n : Nat} (x : BitVec n) :
    x.setWidth 16 &&& ~~~BitVec.ofNat 16 (2 ^ n - 1) = 0 := by
  refine BitVec.eq_of_getLsbD_eq fun i hi => ?_
  simp only [BitVec.getLsbD_and, BitVec.getLsbD_setWidth, BitVec.getLsbD_not, BitVec.getLsbD_ofNat,
    Nat.testBit_two_pow_sub_one]
  by_cases hn : i < n
  · simp [hi, hn]
  · simp [BitVec.getLsbD_of_ge x i (Nat.not_lt.mp hn)]

/-- The operand placed in the immediate is read back. -/
theorem extractLsb'_setWidth_low {n : Nat} (h : n ≤ 16) (x : BitVec n) : (x.setWidth 16).extractLsb' 0 n = x := by
  refine BitVec.eq_of_getLsbD_eq fun i hi => ?_
  simp [hi, show i < 16 by omega]

/-- An immediate is the operand in its low bits when the bits above are zero. -/
theorem and_low_eq_setWidth (v : BitVec 16) (n : Nat) :
    v &&& BitVec.ofNat 16 (2 ^ n - 1) = (v.extractLsb' 0 n).setWidth 16 := by
  refine BitVec.eq_of_getLsbD_eq fun i hi => ?_
  simp only [BitVec.getLsbD_and, BitVec.getLsbD_setWidth, BitVec.getLsbD_extractLsb', BitVec.getLsbD_ofNat,
    Nat.testBit_two_pow_sub_one]
  simp [hi, Bool.and_comm]

/-- The one-bit operand of CFG_CH and CFG_DEV is the low bit of the immediate. -/
theorem ofBool_getLsbD_zero (v : BitVec 16) : BitVec.ofBool (v.getLsbD 0) = v.extractLsb' 0 1 := by
  refine BitVec.eq_of_getLsbD_eq fun i hi => ?_
  simp [show i = 0 by omega]

/-! ## The fixed-zero test -/

theorem selOf_bit (w : Word) : (selOf w).bit = selBit w := by
  unfold selOf; cases selBit w <;> rfl

theorem fieldsLegal_eq_true {cf sf : Bool} {m : BitVec 16} {w : Word} :
    fieldsLegal cf sf m w = true ↔
      rsvOf w = 0 ∧ (sf = true ∨ selBit w = false) ∧ (cf = true ∨ chOf w = 0) ∧ immOf w &&& ~~~m = 0 := by
  simp [fieldsLegal, and_assoc]

theorem legalOr_eq_ok {ok : Bool} {i j : Instr} : legalOr ok i = .ok j ↔ ok = true ∧ i = j := by
  cases ok <;> simp [legalOr]

theorem legalOr_ne_opcode {ok : Bool} {i : Instr} : legalOr ok i ≠ .error .opcode := by
  cases ok <;> simp [legalOr]

/-! ## Words field by field -/

theorem ofNat_eq_opcOf {w : Word} {k : Nat} (h : (opcOf w).toNat = k) : BitVec.ofNat 8 k = opcOf w := by
  rw [← h, BitVec.ofNat_toNat, BitVec.setWidth_eq]

/-- Two words are the same when their five fields are (R80). -/
theorem word_eq_iff {x y : Word} :
    x = y ↔ opcOf x = opcOf y ∧ chOf x = chOf y ∧ selBit x = selBit y ∧ rsvOf x = rsvOf y ∧ immOf x = immOf y := by
  refine ⟨fun h => by simp [h], fun ⟨hopc, hch, hsel, hrsv, himm⟩ => ?_⟩
  rw [word_fields x, word_fields y, hopc, hch, hsel, hrsv, himm]

/-- A field of the bits of `x` outside `y`. -/
theorem extractLsb'_and_not (x y : Word) {start len : Nat} (h : start + len ≤ 32) :
    (x &&& ~~~y).extractLsb' start len = x.extractLsb' start len &&& ~~~y.extractLsb' start len := by
  refine BitVec.eq_of_getLsbD_eq fun i hi => ?_
  simp [hi, show start + i < 32 by omega]

section
variable (x y : Word)

theorem opcOf_and_not : opcOf (x &&& ~~~y) = opcOf x &&& ~~~opcOf y :=
  extractLsb'_and_not x y (by decide)

theorem chOf_and_not : chOf (x &&& ~~~y) = chOf x &&& ~~~chOf y :=
  extractLsb'_and_not x y (by decide)

theorem selBit_and_not : selBit (x &&& ~~~y) = (selBit x && !selBit y) := by
  simp [selBit]

theorem rsvOf_and_not : rsvOf (x &&& ~~~y) = rsvOf x &&& ~~~rsvOf y :=
  extractLsb'_and_not x y (by decide)

theorem immOf_and_not : immOf (x &&& ~~~y) = immOf x &&& ~~~immOf y :=
  extractLsb'_and_not x y (by decide)

end

/-- The mask of an operation: every bit but the free ones (R84). -/
def fieldMask (chFree selFree : Bool) (immFree : BitVec 16) : Word :=
  ~~~cmdWord 0 (bif chFree then BitVec.allOnes 3 else 0) selFree immFree

/-- A row with the word's low byte admits it exactly when the fixed-zero test passes. -/
theorem admits_fieldMask (cf sf : Bool) (m : BitVec 16) (w : Word) :
    TableRow.admits ⟨cmdWord (opcOf w) 0 false 0, fieldMask cf sf m⟩ w = fieldsLegal cf sf m w := by
  rw [Bool.eq_iff_iff, fieldsLegal_eq_true, TableRow.admits, beq_iff_eq, fieldMask, word_eq_iff]
  have and_not_zero {n : Nat} (x : BitVec n) : x &&& ~~~0 = x := by simp
  have hch : chOf w &&& ~~~(bif cf then BitVec.allOnes 3 else 0) = 0 ↔ cf = true ∨ chOf w = 0 := by
    cases cf
    · rw [cond_false, and_not_zero]; simp
    · simp
  have hsel : (selBit w && !sf) = false ↔ sf = true ∨ selBit w = false := by
    cases sf <;> simp
  simp only [opcOf_and_not, chOf_and_not, selBit_and_not, rsvOf_and_not, immOf_and_not, opcOf_cmdWord, chOf_cmdWord,
    selBit_cmdWord, rsvOf_cmdWord, immOf_cmdWord, and_not_zero, hch, hsel]
  tauto

/-- A row admits only words with its own low byte. -/
theorem opcOf_of_admits {r : TableRow} (hr : r ∈ commandRows) {w : Word} (h : r.admits w = true) :
    opcOf r.bits = opcOf w := by
  have hmask : ∀ r ∈ commandRows, r.mask.extractLsb' 0 8 = BitVec.allOnes 8 := by decide
  rw [← eq_of_beq h, opcOf, BitVec.extractLsb'_and, hmask r hr, BitVec.and_allOnes, opcOf]

/-- The low bytes of the table, in its order (R84). -/
theorem commandRows_opcodes :
    commandRows.map (fun r => (opcOf r.bits).toNat) =
      [0, 1, 2, 3, 4, 8, 9, 10, 11, 12, 13, 16, 17, 18, 19, 20, 21, 22, 23, 24, 25, 26, 27, 28] := by
  decide

/-- No two rows share a low byte. -/
theorem commandRows_opcode_unique {r r' : TableRow} (hr : r ∈ commandRows) (hr' : r' ∈ commandRows)
    (h : opcOf r.bits = opcOf r'.bits) : r = r' := by
  have hnodup : (commandRows.map fun r => (opcOf r.bits).toNat).Nodup := by rw [commandRows_opcodes]; decide
  exact List.inj_on_of_nodup_map hnodup hr hr' (congrArg BitVec.toNat h)

/-! ## Decoding is finding the row -/

/-- A fixed-zero test on a word of opcode `k` is the row of that opcode. -/
theorem row_of_fieldsLegal {k : Nat} {cf sf : Bool} {m : BitVec 16} {w : Word} (i : Instr) (hopc : (opcOf w).toNat = k)
    (hr : ⟨cmdWord (BitVec.ofNat 8 k) 0 false 0, fieldMask cf sf m⟩ ∈ commandRows) :
    ∃ r ∈ commandRows, opcOf r.bits = opcOf w ∧
      ∃ j, legalOr (fieldsLegal cf sf m w) i = legalOr (r.admits w) j := by
  rw [ofNat_eq_opcOf hopc] at hr
  exact ⟨_, hr, opcOf_cmdWord _ _ _ _, i, by rw [admits_fieldMask]⟩

/-- What a command word decodes to, by the table (R84, R85): with a row of its low byte, that row decides whether it is an
instruction or has a nonzero fixed-zero field; with none, its opcode is unknown. -/
theorem decodeCmd_cases (w : Word) :
    (∃ r ∈ commandRows, opcOf r.bits = opcOf w ∧ ∃ i, decodeCmd w = legalOr (r.admits w) i) ∨
    ((∀ r ∈ commandRows, opcOf r.bits ≠ opcOf w) ∧ decodeCmd w = .error .opcode) := by
  unfold decodeCmd
  split
  case h_25 hne =>
    refine .inr ⟨fun r hr he => ?_, rfl⟩
    have hmem := List.mem_map_of_mem (f := fun r => (opcOf r.bits).toNat) hr
    rw [commandRows_opcodes, he] at hmem
    simp_all
  all_goals exact .inl (row_of_fieldsLegal _ ‹_› (by decide))

/-- Settles O3: with a row of its low byte a word decodes exactly when that row, the only one that could, admits it; with none
no row admits it. -/
theorem commandWordsMatchTheTable : Obligations.CommandWordsMatchTheTable := by
  intro w
  obtain ⟨r, hr, hlow, i, hdec⟩ | ⟨hnone, hdec⟩ := decodeCmd_cases w
  · refine ⟨⟨fun ⟨j, hj⟩ => ?_, fun ⟨r', hr', hadm⟩ => ?_⟩, fun h => ?_, fun h => absurd hlow (h r hr)⟩
    · exact ⟨r, hr, (legalOr_eq_ok.mp (hdec ▸ hj)).1⟩
    · have hrow : r' = r := commandRows_opcode_unique hr' hr ((opcOf_of_admits hr' hadm).trans hlow.symm)
      exact ⟨i, hdec.trans (legalOr_eq_ok.mpr ⟨hrow ▸ hadm, rfl⟩)⟩
    · exact absurd (hdec ▸ h) legalOr_ne_opcode
  · refine ⟨⟨fun ⟨j, hj⟩ => ?_, fun ⟨r, hr, hadm⟩ => absurd (opcOf_of_admits hr hadm) (hnone r hr)⟩,
      fun _ => hnone, fun _ => hdec⟩
    simp [hdec] at hj

/-! ## Words that stand for no instruction (R85) -/

/-- A step whose word is rejected answers the status alone. -/
theorem step_of_reject {s : State} {r : Request} {rest : List Request} {e : Reject} (hin : s.inbox = r :: rest)
    (hdec : decodeCmd r.word = .error e) :
    step s = .next { s with cmd := r, inbox := rest, res := Result.ofStatus (rejectStatus e) } := by
  have hfetched : fetched { s with cmd := r, inbox := rest } = .error e := hdec
  simp only [step, fetch_cons hin, hfetched]
  rfl

/-- The opcodes outside the table (R84). -/
theorem no_row_iff (o : BitVec 8) :
    (∀ r ∈ commandRows, opcOf r.bits ≠ o) ↔
      (5 ≤ o.toNat ∧ o.toNat ≤ 7) ∨ (14 ≤ o.toNat ∧ o.toNat ≤ 15) ∨ 29 ≤ o.toNat := by
  revert o; decide +kernel

/-- Settles O6: an opcode outside the table has no row, so its word is rejected for the opcode; a word of the table's opcodes
that no row admits fails its own row's fixed-zero test. -/
theorem illegalWordsAnswerTheirStatus : Obligations.IllegalWordsAnswerTheirStatus := by
  intro s r rest hin
  refine ⟨fun hunknown => step_of_reject (e := .opcode) hin ?_, fun hknown hadm => step_of_reject (e := .reserved) hin ?_⟩
  · exact (commandWordsMatchTheTable r.word).2.mpr ((no_row_iff _).mpr hunknown)
  · obtain ⟨x, hx, -, i, hdec⟩ | ⟨hnone, -⟩ := decodeCmd_cases r.word
    · rw [hdec, hadm x hx]; rfl
    · exact absurd ((no_row_iff _).mp hnone) hknown

end Sys2Proof.Machine
end

section
/-! PROOFS. The round trip of both vocabularies (spec/30_encoding.md R84, R87, R91, R92, R95): a command word is rebuilt from
the fields that its fixed-zero test leaves free, and a wire frame from its free bytes and the CRC16 of what precedes it. -/

namespace Sys2Proof.Machine

/-! ## Command words -/

/-- The fixed-zero test of an encoded word looks at its own fields. -/
@[simp] theorem fieldsLegal_cmdWord (cf sf : Bool) (m : BitVec 16) (o : BitVec 8) (c : BitVec 3) (sel : Bool) (imm : BitVec 16) :
    fieldsLegal cf sf m (cmdWord o c sel imm) = ((sf || !sel) && (cf || c == 0) && imm &&& ~~~m == 0) := by
  simp [fieldsLegal]

/-- A word of opcode `k` that passes the fixed-zero test is rebuilt from its free fields. -/
theorem cmdWord_of_fieldsLegal {k : Nat} {cf sf : Bool} {m imm : BitVec 16} {w : Word} (hopc : (opcOf w).toNat = k)
    (hl : fieldsLegal cf sf m w = true) (himm : immOf w &&& m = imm) :
    cmdWord (BitVec.ofNat 8 k) (bif cf then chOf w else 0) (bif sf then selBit w else false) imm = w := by
  obtain ⟨hrsv, hsel, hch, hfixed⟩ := fieldsLegal_eq_true.mp hl
  have hc : (bif cf then chOf w else 0) = chOf w := by cases cf <;> simp_all
  have hs : (bif sf then selBit w else false) = selBit w := by cases sf <;> simp_all
  have hm : imm = immOf w := by
    have hsplit : immOf w = (immOf w &&& m) ||| (immOf w &&& ~~~m) := by
      rw [← BitVec.and_or_distrib_left, BitVec.or_not_self, BitVec.and_allOnes]
    rw [hsplit, hfixed, himm]; simp
  rw [ofNat_eq_opcOf hopc, hc, hs, hm, ← word_eq_cmdWord hrsv]

/-- A command word that decodes is the encoding of what it decodes to. -/
theorem encode_of_decodeCmd {w : Word} {i : Instr} (h : decodeCmd w = .ok i) :
    encode i = .cmd w ∧ WellFormed i = true := by
  have hbyte : immOf w &&& 0x00FF = ((immOf w).extractLsb' 0 8).setWidth 16 := and_low_eq_setWidth _ 8
  have hmode : immOf w &&& 0x0007 = ((immOf w).extractLsb' 0 3).setWidth 16 := and_low_eq_setWidth _ 3
  have hbit : immOf w &&& 0x0001 = (BitVec.ofBool ((immOf w).getLsbD 0)).setWidth 16 :=
    ofBool_getLsbD_zero _ ▸ and_low_eq_setWidth _ 1
  unfold decodeCmd at h
  split at h
  case h_25 => cases h
  all_goals
    obtain ⟨hl, rfl⟩ := legalOr_eq_ok.mp h
    refine ⟨congrArg Encoding.cmd ?_, rfl⟩
  -- FEED, PID_CLEAR and PID_STEP, SET_MOTION, CFG_CH and CFG_DEV have a free field beside CH.
  case h_2 hopc => exact (cmdWord_of_fieldsLegal hopc hl hbyte :)
  case h_15 hopc | h_16 hopc => rw [selOf_bit]; exact (cmdWord_of_fieldsLegal hopc hl BitVec.and_zero :)
  case h_18 hopc => exact (cmdWord_of_fieldsLegal hopc hl hmode :)
  case h_22 hopc | h_23 hopc => exact (cmdWord_of_fieldsLegal hopc hl hbit :)
  all_goals exact (cmdWord_of_fieldsLegal ‹(opcOf w).toNat = _› hl BitVec.and_zero :)

@[simp] theorem selOf_cmdWord (o : BitVec 8) (c : BitVec 3) (sel : Sel) (imm : BitVec 16) :
    selOf (cmdWord o c sel.bit imm) = sel := by
  cases sel <;> simp [selOf, Sel.bit]

/-- A command operation decodes from its own word. -/
theorem decode_of_encode_cmd {i : Instr} {w : Word} (h : encode i = .cmd w) : decode (encode i) = .ok i := by
  have hbyte (b : BitVec 8) : b.setWidth 16 &&& 0xFF00#16 = 0#16 := setWidth_and_not_low b
  have hmode (m : BitVec 3) : m.setWidth 16 &&& 0xFFF8#16 = 0#16 := setWidth_and_not_low m
  have hbit (d : Bool) : (BitVec.ofBool d).setWidth 16 &&& 0xFFFE#16 = 0#16 := setWidth_and_not_low _
  cases i <;> cases h
  case feed b => simp [encode, decode, decodeCmd, legalOr, hbyte, extractLsb'_setWidth_low]
  case setMotion ch mode => simp [encode, decode, decodeCmd, legalOr, hmode, extractLsb'_setWidth_low]
  case cfgCh | cfgDev => simp [encode, decode, decodeCmd, legalOr, hbit]
  all_goals simp [encode, decode, decodeCmd, legalOr]

/-! ## Frames from their bytes -/

/-- The first bytes of a buffer, one by one. -/
theorem map_byteAt_range {b : List Byte} {n : Nat} (h : n ≤ b.length) : (List.range n).map (byteAt b) = b.take n := by
  refine List.ext_getElem (by simp [h]) fun i hi _ => ?_
  have hib : i < b.length := by simp at hi; omega
  simp [byteAt, hib]

/-- The bytes before the CRC16: the first `k` one by one, then the free bytes that follow them. -/
theorem take_before_crc {b : List Byte} {k : Nat} (h : k + 2 ≤ b.length) :
    (List.range k).map (byteAt b) ++ (b.drop k).take (b.length - (k + 2)) = b.take (b.length - 2) := by
  rw [map_byteAt_range (by omega), ← List.take_add]
  congr 1
  omega

/-- The body of a short-family frame is its bytes before the CRC16 (R91). -/
theorem body_shortFrameOf {b : List Byte} (hs : byteAt b 1 = Config.shortHeader) (h7 : 7 ≤ b.length) :
    (shortFrameOf b).body (byteAt b 4) = b.take (b.length - 2) := by
  rw [← take_before_crc (k := 5) h7]
  simp [ShortFrame.body, shortFrameOf, ← hs, List.range_succ]

/-- The body of a long-family frame is its bytes before the CRC16 (R92). -/
theorem body_longFrameOf {b : List Byte} (hl : byteAt b 1 = Config.longHeader) (h15 : 15 ≤ b.length) :
    (longFrameOf b).body (rd16 b 11) = b.take (b.length - 2) := by
  rw [← take_before_crc (k := 13) h15]
  simp [LongFrame.body, longFrameOf, ← hl, rd16, List.range_succ]

/-- The free bytes of an encoded short-family frame (R91). -/
theorem shortFrameOf_encode (cmd : Byte) (f : ShortFrame) : shortFrameOf (withCrc16 (f.body cmd)) = f := by
  cases f
  simp [shortFrameOf, withCrc16, ShortFrame.body, byteAt]

/-- The free bytes of an encoded long-family frame (R92). -/
theorem longFrameOf_encode (type : BitVec 16) (f : LongFrame) : longFrameOf (withCrc16 (f.body type)) = f := by
  cases f
  simp [longFrameOf, withCrc16, LongFrame.body, byteAt, rd16]

/-! ## The kind that a discriminator selects -/

theorem encode_shortInstr (cmd : Byte) (f : ShortFrame) : encode (shortInstr cmd f) = encodeShort cmd f := by
  unfold shortInstr
  split_ifs
  case neg => rfl
  all_goals subst cmd; rfl

theorem encode_longInstr (type : BitVec 16) (f : LongFrame) : encode (longInstr type f) = encodeLong type f := by
  unfold longInstr
  split_ifs
  case neg => rfl
  all_goals subst type; rfl

/-- A command byte of the table selects a kind of its own, so SHORT_OTHER never holds one (R96, R162). -/
theorem wellFormed_shortInstr (cmd : Byte) (f : ShortFrame) : WellFormed (shortInstr cmd f) = f.fits := by
  unfold shortInstr
  split_ifs
  case neg => simp_all [WellFormed, knownCommands]
  all_goals rfl

/-- A type of the table selects a kind of its own, so LONG_OTHER never holds one (R97, R168). -/
theorem wellFormed_longInstr (type : BitVec 16) (f : LongFrame) : WellFormed (longInstr type f) = f.fits := by
  unfold longInstr
  split_ifs
  case neg => simp_all [WellFormed, knownTypes]
  all_goals rfl

theorem shortInstr_of_unknown {cmd : Byte} (h : knownCommands.contains cmd = false) (f : ShortFrame) :
    shortInstr cmd f = .kindShortOther cmd f := by
  simp_all [knownCommands, shortInstr]

theorem longInstr_of_unknown {type : BitVec 16} (h : knownTypes.contains type = false) (f : LongFrame) :
    longInstr type f = .kindLongOther type f := by
  simp_all [knownTypes, longInstr]

theorem shortFrame_fits_iff {f : ShortFrame} : f.fits = true ↔ shortLength f ≤ 1000 :=
  decide_eq_true_iff

theorem longFrame_fits_iff {f : LongFrame} : f.fits = true ↔ longLength f ≤ 1000 :=
  decide_eq_true_iff

/-- A wire frame that decodes is the encoding of what it decodes to. -/
theorem encode_of_decode_wire {b : List Byte} {i : Instr} (h : decode (.wire b) = .ok i) :
    encode i = .wire b ∧ WellFormed i = true := by
  obtain ⟨hle, ⟨hc, -, rfl⟩ | ⟨hc, hd, -, rfl⟩ | ⟨hc, hs, h7, -, rfl⟩ | ⟨hc, hl, h15, -, rfl⟩⟩ := decode_wire_cases h
  · exact ⟨rfl, by simp [WellFormed, Config.pktMax, hle, hc]⟩
  · exact ⟨rfl, by simp [WellFormed, Config.pktMax, hle, hc, hd]⟩
  · rw [encode_shortInstr, wellFormed_shortInstr, shortFrame_fits_iff, shortLength_shortFrameOf h7, encodeShort,
      body_shortFrameOf hs h7, ← eq_withCrc16_of_crc16Ok hc]
    exact ⟨rfl, hle⟩
  · rw [encode_longInstr, wellFormed_longInstr, longFrame_fits_iff, longLength_longFrameOf h15, encodeLong,
      body_longFrameOf hl h15, ← eq_withCrc16_of_crc16Ok hc]
    exact ⟨rfl, hle⟩

/-- A buffer that passes the checks of the short family decodes to the kind of its command byte (R91, R95). -/
theorem decode_wire_short {b : List Byte} (hle : b.length ≤ 1000) (hc : crc16Ok b = true) (hs : byteAt b 1 = 0xC5)
    (h7 : 7 ≤ b.length) : decode (.wire b) = .ok (shortInstr (byteAt b 4) (shortFrameOf b)) := by
  have hd : ¬ noDiscriminator b = true := by rw [noDiscriminator_eq_true, hs]; simp [h7]
  have hle : ¬ Config.pktMax < b.length := Nat.not_lt.mpr hle
  have hs : byteAt b 1 = Config.shortHeader := hs
  simp [decode, decodeWire, hle, hc, hd, hs]

/-- A buffer that passes the checks of the long family decodes to the kind of its type (R92, R95). -/
theorem decode_wire_long {b : List Byte} (hle : b.length ≤ 1000) (hc : crc16Ok b = true) (hl : byteAt b 1 = 0x05)
    (h15 : 15 ≤ b.length) : decode (.wire b) = .ok (longInstr (rd16 b 11) (longFrameOf b)) := by
  have hd : ¬ noDiscriminator b = true := by rw [noDiscriminator_eq_true, hl]; simp [h15]
  have hle : ¬ Config.pktMax < b.length := Nat.not_lt.mpr hle
  have hs : byteAt b 1 ≠ Config.shortHeader := by rw [hl]; decide
  simp [decode, decodeWire, hle, hc, hd, hs]

/-- A frame of the short family decodes to the kind of its command byte. -/
theorem decode_encodeShort (cmd : Byte) {f : ShortFrame} (hf : f.fits = true) :
    decode (encodeShort cmd f) = .ok (shortInstr cmd f) := by
  obtain ⟨b, hb, h7, hc, hs, hcmd⟩ := Laws.TableRow.isShort_encodeShort (i := .kindShortOther cmd f) cmd f rfl
  obtain rfl : withCrc16 (f.body cmd) = b := Encoding.wire.inj hb
  have hframe := shortFrameOf_encode cmd f
  have hle := shortFrame_fits_iff.mp hf
  rw [← hframe, shortLength_shortFrameOf h7] at hle
  rw [encodeShort, decode_wire_short hle hc hs h7, hcmd, hframe]

/-- A frame of the long family decodes to the kind of its type. -/
theorem decode_encodeLong (type : BitVec 16) {f : LongFrame} (hf : f.fits = true) :
    decode (encodeLong type f) = .ok (longInstr type f) := by
  obtain ⟨b, hb, h15, hc, hl, htype⟩ := Laws.TableRow.isLong_encodeLong (i := .kindLongOther type f) type f rfl
  obtain rfl : withCrc16 (f.body type) = b := Encoding.wire.inj hb
  have hframe := longFrameOf_encode type f
  have hle := longFrame_fits_iff.mp hf
  rw [← hframe, longLength_longFrameOf h15] at hle
  rw [encodeLong, decode_wire_long hle hc hl h15, htype, hframe]

/-! ## The round trip -/

/-- Settles O2, by vocabulary: a word is rebuilt from its free fields, a frame from its free bytes and their CRC16. -/
theorem encodeOfDecode : Obligations.EncodeOfDecode := by
  intro e i h
  cases e with
  | cmd w => exact encode_of_decodeCmd h
  | wire b => exact encode_of_decode_wire h

/-- Settles O1, constructor by constructor: an operation decodes from its word, a kind of a family from its frame, and NONE and
UNKNOWN from the buffer that their condition selects. -/
theorem decodeOfEncode : Obligations.DecodeOfEncode := by
  intro i hwf
  cases i with
  | nop | feed _ | frmReset | rdpkt | rdfrm | crc8Calc | crc16Calc | identify | parseLong | buildWithCrc | buildLong | sample _
  | run _ | tick | pidClear _ _ | pidStep _ _ | pwmShape _ | setMotion _ _ | setVelocity _ | wrMeters _ | wrColor _
  | cfgCh _ _ | cfgDev _ | rdCh _ => exact decode_of_encode_cmd rfl
  | kindMotionShort f | kindMotionLong f | kindOnlineDetect f | kindReqX6 f | kindNfcDetect f | kindSetFilamentInfo f
  | kindHeartbeat f => exact decode_encodeShort _ hwf
  | kindMcOnline f | kindReadFilamentInfo f | kindSetFilamentInfoV2 f | kindVersion f | kindSerialNumber f =>
    exact decode_encodeLong _ hwf
  | kindShortOther cmd f =>
    obtain ⟨hf, hcmd⟩ : f.fits = true ∧ knownCommands.contains cmd = false := by simpa [WellFormed] using hwf
    rw [encode, decode_encodeShort cmd hf, shortInstr_of_unknown hcmd]
  | kindLongOther type f =>
    obtain ⟨hf, htype⟩ : f.fits = true ∧ knownTypes.contains type = false := by simpa [WellFormed] using hwf
    rw [encode, decode_encodeLong type hf, longInstr_of_unknown htype]
  | kindNone b =>
    obtain ⟨hle, hc⟩ : b.length ≤ Config.pktMax ∧ crc16Ok b = false := by simpa [WellFormed] using hwf
    simp [encode, decode, decodeWire, Nat.not_lt.mpr hle, hc]
  | kindUnknown b =>
    obtain ⟨⟨hle, hc⟩, hd⟩ : (b.length ≤ Config.pktMax ∧ crc16Ok b = true) ∧ noDiscriminator b = true := by
      simpa [WellFormed] using hwf
    simp [encode, decode, decodeWire, Nat.not_lt.mpr hle, hc, hd]

/-- An encoding written out as the encoder writes it decodes to its instruction. -/
theorem decode_of_encode_eq {e : Encoding} {i : Instr} (h : encode i = e) (hwf : WellFormed i = true) : decode e = .ok i :=
  h ▸ decodeOfEncode i hwf

/-- Settles O4: the spec's words and frames are what the encoder writes for their instructions. -/
theorem specWordsDecode : Obligations.SpecWordsDecode := by
  refine ⟨?_, ?_, ?_, ?_, ?_, ?_, ?_, ?_, ?_⟩ <;> exact decode_of_encode_eq (by decide +kernel) rfl

end Sys2Proof.Machine
end

section
/-! PROOFS. The channel check (spec/30_encoding.md R86), and the answers of the 16 packet kinds (spec/30_encoding.md R95,
spec/41_packet_codec.md R153..R169). -/

namespace Sys2Proof.Machine

/-- Settles O9: each of the eleven operations starts with the channel check, which CH 4..7 fails. -/
theorem channelOutOfRange : Obligations.ChannelOutOfRange := by
  intro s ch mode sel dir hch i hi
  simp only [List.mem_cons, List.not_mem_nil, or_false] at hi
  obtain rfl | rfl | rfl | rfl | rfl | rfl | rfl | rfl | rfl | rfl | rfl := hi <;>
    simp only [exec, execSample, execRun, execPidClear, execPidStep, execPwmShape, execSetMotion, execSetVelocity,
      execWrMeters, execWrColor, execCfgCh, execRdCh, withChannel_of_ge hch, raise_eq]

/-- Settles O30: each kind answers IDENTIFY's result for a frame of its length, which fits a buffer. -/
theorem packetKindsComplete : Obligations.PacketKindsComplete := by
  intro s f g cmd type b
  refine ⟨fun hn => ?_, fun hm => ?_, fun hb => ?_⟩
  · have answer (k val) := identified_of_le hn k val s
    exact ⟨answer _ _, answer _ _, answer _ _, answer _ _, answer _ _, answer _ _, answer _ _, answer _ _⟩
  · have answer (k val) := identified_of_le hm k val s
    exact ⟨answer _ _, answer _ _, answer _ _, answer _ _, answer _ _, answer _ _⟩
  · exact ⟨identified_of_le hb _ _ s, identified_of_le hb _ _ s⟩

end Sys2Proof.Machine
end

section
/-! PROOFS. One FEED, offset by offset (spec/40_frame_decoder.md R124..R128): the marker that opens a frame, the header CRC8, the
byte that completes the frame, and the bytes between them up to the 999th. -/

namespace Sys2Proof.Machine

/-! ## A byte at or past the header CRC8 -/

/-- At COFF and past it a byte is stored and settles nothing: SHORT, DLEN and CRC8R are those of the header (R124). -/
theorem stored_of_coff_le {b : Byte} {s : State} (h : coff s.short ≤ s.idx.val) :
    stored b s = { s with buf := Memory.write s.buf s.idx.val b } := by
  have h3 := coff_pos s.short
  have hs : shortAfter b s = s.short := shortAfter_of_ne (by omega)
  rw [stored_eq, hs, dlenAfter_of_gt h, crcAfter_of_le (by rwa [hs])]

/-- The header CRC8 byte rejects the frame exactly when it is not CRC8R or the declared length leaves no room (R128). -/
theorem headerBad_eq_true {b : Byte} {s : State} (h : s.idx.val = coff s.short) :
    headerBad b s = true ↔ b ≠ s.crc8r ∨ s.dlen.toNat < coff s.short + 3 := by
  simp [headerBad, h]

/-- FEED of a byte at or past COFF that abandons the frame when `bad` and goes on otherwise: the byte is stored, and FS, IDX and
RES alone say which. -/
theorem feed_abandons_or_goes_on {b : Byte} {s : State} {bad : Prop} (hwf : MemoryInv s) (hf : s.fs = .framing)
    (hc : coff s.short ≤ s.idx.val)
    (outcome : (bad ∧ frameByte b s = (abandon (stored b s), feedResult .invalid none [])) ∨
      (¬ bad ∧ ∃ i : Fin Config.frameCap, i.val = s.idx.val + 1 ∧
        frameByte b s = ({ stored b s with idx := i }, feedResult .incomplete none []))) :
    ∃ t, exec (.feed b) s = .next t ∧ t.buf.read s.idx.val = b ∧ SameBytesBut s.idx.val s.buf t.buf ∧
      t.crc8r = s.crc8r ∧ t.short = s.short ∧ t.dlen = s.dlen ∧ SameStage s t ∧ SameOutsideFramer s t ∧
      (bad → t.fs = .seeking ∧ t.idx.val = 0 ∧ t.res = { Result.ofStatus .ok with fstat := some .invalid }) ∧
      (¬ bad → t.fs = .framing ∧ t.idx.val = s.idx.val + 1 ∧
        t.res = { Result.ofStatus .ok with fstat := some .incomplete }) := by
  have hself : (Memory.write s.buf s.idx.val b).read s.idx.val = b := Memory.read_write_self hwf.1 _ _
  have hothers : SameBytesBut s.idx.val s.buf (Memory.write s.buf s.idx.val b) := fun _ ha => Memory.read_write_ne ha _ _
  rw [exec_feed, feedByte_framing hf]
  rw [stored_of_coff_le hc] at outcome
  obtain ⟨hbad, e⟩ | ⟨hgood, i, hi, e⟩ := outcome <;> rw [e]
  · exact ⟨_, rfl, hself, hothers, rfl, rfl, rfl, ⟨rfl, rfl, rfl, fun _ => rfl⟩, ⟨fun _ => rfl, rfl, rfl, rfl⟩,
      fun _ => ⟨rfl, rfl, rfl⟩, fun h => absurd hbad h⟩
  · exact ⟨_, rfl, hself, hothers, rfl, rfl, rfl, ⟨rfl, rfl, rfl, fun _ => rfl⟩, ⟨fun _ => rfl, rfl, rfl, rfl⟩,
      fun h => absurd h hgood, fun _ => ⟨hf, hi, rfl⟩⟩

/-- At COFF the two checks of R128 alone decide: the frame is not complete there, and the cap is far. -/
theorem frameByte_at_coff {b : Byte} {s : State} (h : s.idx.val = coff s.short) :
    ((b ≠ s.crc8r ∨ s.dlen.toNat < coff s.short + 3) ∧
        frameByte b s = (abandon (stored b s), feedResult .invalid none [])) ∨
      (¬ (b ≠ s.crc8r ∨ s.dlen.toNat < coff s.short + 3) ∧ ∃ i : Fin Config.frameCap, i.val = s.idx.val + 1 ∧
        frameByte b s = ({ stored b s with idx := i }, feedResult .incomplete none [])) := by
  have h6 := coff_le s.short
  have hbad : headerBad b (stored b s) = true ↔ b ≠ s.crc8r ∨ s.dlen.toNat < coff s.short + 3 := by
    rw [stored_of_coff_le h.ge]
    exact headerBad_eq_true h
  rw [← hbad]
  obtain ⟨hb, e⟩ | ⟨-, hlt, -⟩ | ⟨-, -, hcap, -⟩ | ⟨hb, -, -, i, hi, e⟩ := frameByte_cases b s
  · exact .inl ⟨hb, e⟩
  · rw [stored_of_coff_le h.ge] at hlt
    exact absurd h.symm (Nat.ne_of_lt hlt)
  · have hcap : s.idx.val + 1 = 999 := hcap
    omega
  · exact .inr ⟨by simp [hb], i, hi, e⟩

/-- Settles O34: COFF is past the length field, and the checks of R128 decide the frame's fate there. -/
theorem feedAtHeaderCrc : Obligations.FeedAtHeaderCrc := by
  intro s b hwf hf hi
  obtain ⟨t, ht, hself, hothers, hcrc, hshort, hdlen, hstage, houtside, hbad, hgood⟩ :=
    feed_abandons_or_goes_on hwf hf hi.ge (frameByte_at_coff (b := b) hi)
  exact ⟨t, ht, hself, hothers, hcrc, hshort, hdlen, hstage, houtside, hbad, fun hb hlen =>
    hgood fun h => h.elim (absurd hb) (Nat.not_lt.mpr hlen)⟩

/-! ## A byte past the header CRC8 -/

/-- Past COFF the header CRC8 has been checked, and only the declared length and the cap end the frame (R126, R127). -/
theorem frameByte_of_coff_lt {b : Byte} {s : State} (h : coff s.short < s.idx.val) :
    (s.idx.val + 1 = s.dlen.toNat ∧ frameByte b s = (completeFrame (s.idx.val + 1) (stored b s),
        feedResult .ready (some (BitVec.ofNat 16 (s.idx.val + 1))) [.frame (s.idx.val + 1)])) ∨
      (s.idx.val + 1 ≠ s.dlen.toNat ∧
        ((s.idx.val + 1 = 999 ∧ frameByte b s = (abandon (stored b s), feedResult .invalid none [])) ∨
          (s.idx.val + 1 ≠ 999 ∧ ∃ i : Fin Config.frameCap, i.val = s.idx.val + 1 ∧
            frameByte b s = ({ stored b s with idx := i }, feedResult .incomplete none [])))) := by
  have good : headerBad b (stored b s) = false := by
    rw [stored_of_coff_le h.le]
    exact headerBad_of_ne h.ne'
  have hdecl : (coff (stored b s).short < s.idx.val ∧ s.idx.val + 1 = (stored b s).dlen.toNat) ↔
      s.idx.val + 1 = s.dlen.toNat := by
    rw [stored_of_coff_le h.le]
    exact and_iff_right h
  obtain ⟨hbad, -⟩ | ⟨-, hc, hn, e⟩ | ⟨-, hn, hcap, e⟩ | ⟨-, hn, hlt, i, hi, e⟩ := frameByte_cases b s
  · simp [good] at hbad
  · exact .inl ⟨hdecl.mp ⟨hc, hn⟩, e⟩
  · exact .inr ⟨fun hd => hn (hdecl.mpr hd), .inl ⟨hcap, e⟩⟩
  · exact .inr ⟨fun hd => hn (hdecl.mpr hd), .inr ⟨hlt.ne, i, hi, e⟩⟩

/-- Settles O35: the byte at DLEN − 1 completes the frame, and the copy to PBUF reads the bytes just stored in BUF. -/
theorem feedCompletesTheFrame : Obligations.FeedCompletesTheFrame := by
  intro s b hwf hf hc hn
  obtain ⟨-, e⟩ | ⟨hne, -⟩ := frameByte_of_coff_lt (b := b) hc
  case inr => exact absurd hn hne
  rw [stored_of_coff_le hc.le] at e
  rw [exec_feed, feedByte_framing hf, e]
  have hidx := idx_lt s
  have hself : (Memory.write s.buf s.idx.val b).read s.idx.val = b := Memory.read_write_self hwf.1 _ _
  have hothers : SameBytesBut s.idx.val s.buf (Memory.write s.buf s.idx.val b) := fun _ ha => Memory.read_write_ne ha _ _
  have hcopy (a : Nat) := Memory.read_copyFrom (src := Memory.write s.buf s.idx.val b) hwf.2 a (idx_lt_pktMax s)
  refine ⟨_, rfl, rfl, rfl, ?_, rfl, fun hp => ?_, fun hp => ?_, fun a ha => ?_, ?_, fun a ha => ?_, hself, hothers, rfl, rfl,
    rfl, ⟨fun _ => rfl, rfl, rfl, rfl⟩, rfl⟩
  · exact (BitVec.toNat_ofNat _ _).trans (Nat.mod_eq_of_lt (by omega))
  · simp [completeFrame, ovrAfter, hp]
  · simp [completeFrame, ovrAfter, hp]
  · exact (hcopy a).trans ((if_pos (by omega)).trans (hothers a ha.ne))
  · exact (hcopy s.idx.val).trans ((if_pos (by omega)).trans hself)
  · exact (hcopy a).trans (if_neg (by omega))

/-- Settles O36: short of its declared end, only the 999th byte ends the frame. -/
theorem feedGoesOnUntilTheCap : Obligations.FeedGoesOnUntilTheCap := by
  intro s b hwf hf hc hn
  obtain ⟨hdone, -⟩ | ⟨-, outcome⟩ := frameByte_of_coff_lt (b := b) hc
  · exact absurd hdone hn
  · exact feed_abandons_or_goes_on hwf hf hc.le outcome

/-! ## A byte in SEEKING, and the marker in FRAMING -/

/-- A byte in FRAMING, of any value, after which the framer is still in FRAMING has moved IDX on by one (R124). -/
theorem feedByte_goes_on {b : Byte} {s : State} (hf : s.fs = .framing) (h : (feedByte b s).1.fs = .framing) :
    (feedByte b s).1.idx.val = s.idx.val + 1 := by
  obtain ⟨hseek, -⟩ | ⟨hseek, -⟩ | ⟨-, e⟩ | ⟨-, -, -, -, e⟩ | ⟨-, -, -, i, hi, e⟩ := feedByte_cases b s
  · simp [hf] at hseek
  · simp [hf] at hseek
  · rw [e] at h; exact nomatch h
  · rw [e] at h; exact nomatch h
  · rw [e]; exact hi

/-- Settles O32: in SEEKING a byte is discarded or, as the marker, opens a frame; in FRAMING the marker is stored like any byte,
and a frame that is neither abandoned nor completed has IDX one further. -/
theorem feedWhileSeeking : Obligations.FeedWhileSeeking := by
  refine ⟨fun s b hf hb => ?_, fun s hwf hf => ?_, fun s t hf ht hfs => ?_⟩
  · rw [exec_feed, feedByte_seeking hf, seekByte_of_ne hb]
    rfl
  · have e : feedByte 0x3D s = (seekByte Config.marker s, feedResult .incomplete none []) := feedByte_seeking hf _
    rw [exec_feed, e, seekByte_marker]
    exact ⟨_, rfl, rfl, rfl, rfl, rfl, rfl, Memory.read_write_self hwf.1 _ _, fun _ ha => Memory.read_write_ne ha _ _,
      ⟨rfl, rfl, rfl, fun _ => rfl⟩, ⟨fun _ => rfl, rfl, rfl, rfl⟩, rfl⟩
  · rw [exec_feed] at ht
    obtain rfl := Host.Outcome.next.inj ht
    exact feedByte_goes_on hf hfs

end Sys2Proof.Machine
end

section
/-! PROOFS. The operations beside FEED (spec/40_frame_decoder.md R130..R135, spec/43_motor_pid.md R249): the CRC calculations, NOP,
FRM_RESET, and what RDPKT and RDFRM show of the stage and of the framer. -/

namespace Sys2Proof.Machine

/-! ## The CRC calculations and the resets -/

/-- Settles O31: within 1000 bytes each answers its CRC, the fold of its step; past them both raise E_LENGTH. -/
theorem crcCalculations : Obligations.CrcCalculations := by
  intro s
  refine ⟨fun hle => ?_, fun hgt => ?_⟩
  · have hfits : ¬ Config.pktMax < s.bufin.length := Nat.not_lt.mpr hle
    simp only [exec, execCrc8Calc, execCrc16Calc, if_neg hfits]
    exact ⟨rfl, rfl⟩
  · have hlong : Config.pktMax < s.bufin.length := hgt
    simp only [exec, execCrc8Calc, execCrc16Calc, if_pos hlong]
    exact ⟨rfl, rfl⟩

/-- Settles O37: NOP ends at once, and FRM_RESET writes the five in-flight fields. -/
theorem nopAndFrmReset : Obligations.NopAndFrmReset :=
  fun _ => ⟨rfl, rfl⟩

/-! ## RDPKT -/

/-- RDPKT's val is PRDY in bit 0 and OVR in bit 1, and nothing above (R132). -/
theorem stageFlags_bits (prdy ovr : Bool) :
    (stageFlags prdy ovr).getLsbD 0 = prdy ∧ (stageFlags prdy ovr).getLsbD 1 = ovr ∧ (stageFlags prdy ovr).toNat < 4 := by
  revert prdy ovr; decide

/-- Settles O38: a PLEN within PBUF is handed over byte by byte. -/
theorem rdpktHandsOverTheFrame : Obligations.RdpktHandsOverTheFrame := by
  intro s hn
  obtain ⟨hprdy, hovr, hsmall⟩ := stageFlags_bits s.prdy s.ovr
  exact ⟨s.pbuf.bytes s.plen.toNat, stageFlags s.prdy s.ovr, rfl, (Memory.length_bytes _ _).trans (Nat.min_eq_left hn),
    fun _ hj => Memory.byteAt_bytes hn hj, hprdy, hovr, hsmall⟩

/-! ## RDFRM -/

theorem Phase.bit_eq_true (p : Phase) : p.bit = true ↔ p = .framing := by
  cases p <;> decide

/-- RDFRM's val, field by field (R133). -/
theorem framerWord_fields (s : State) :
    (framerWord s).getLsbD 0 = s.fs.bit ∧ (framerWord s).extractLsb' 1 10 = BitVec.ofNat 10 s.idx.val ∧
      (framerWord s).extractLsb' 11 8 = s.crc8r ∧ (framerWord s).getLsbD 19 = s.short ∧
      (framerWord s).getLsbD 20 = s.prdy ∧ (framerWord s).getLsbD 21 = s.ovr ∧
      (framerWord s).extractLsb' 22 10 = s.plen.extractLsb' 0 10 := by
  unfold framerWord
  refine ⟨?_, ?_, ?_, ?_, ?_, ?_, ?_⟩
  case refine_2 =>
    refine BitVec.eq_of_getLsbD_eq fun i hi => ?_
    rw [BitVec.getLsbD_extractLsb']
    simp only [BitVec.getLsbD_append]
    simp [hi, show 1 + i < 11 by omega, show 1 + i < 19 by omega, show 1 + i < 20 by omega, show 1 + i < 21 by omega,
      show 1 + i < 22 by omega]
  case refine_3 =>
    refine BitVec.eq_of_getLsbD_eq fun i hi => ?_
    rw [BitVec.getLsbD_extractLsb']
    simp only [BitVec.getLsbD_append]
    simp [hi, show 11 + i < 19 by omega, show 11 + i < 20 by omega, show 11 + i < 21 by omega,
      show 11 + i < 22 by omega]
  case refine_7 => exact BitVec.extractLsb'_append_eq_left
  all_goals
    simp only [BitVec.getLsbD_append]
    simp

/-- Settles O39: RDFRM answers the word of these fields; IDX fits its ten bits, as it is below 999. -/
theorem rdfrmPacksTheRegisters : Obligations.RdfrmPacksTheRegisters := by
  intro s
  obtain ⟨hfs, hidx, hcrc, hshort, hprdy, hovr, hplen⟩ := framerWord_fields s
  have hlt := idx_lt s
  refine ⟨framerWord s, rfl, by rw [hfs, Phase.bit_eq_true], ?_, hcrc, hshort, hprdy, hovr, hplen⟩
  rw [hidx, BitVec.toNat_ofNat, Nat.mod_eq_of_lt (by omega)]

end Sys2Proof.Machine
end

section
/-! PROOFS. A built buffer frames back (spec/40_frame_decoder.md R136): what a serialiser answers is a delivered frame
(spec/41_packet_codec.md R151), and a framer that has taken in its first k bytes goes on until the last byte completes it. The
framer's invariant gives SHORT, DLEN and CRC8R from the bytes received, so only BUF and IDX are followed byte by byte. -/

namespace Sys2Proof.Machine

/-! ## What a serialiser answers -/

/-- A buffer that a serialiser answers is built from a draft with room for its CRCs (R172, R174). -/
theorem built_of_serialised {s t : State} {r : List Byte} (h : exec .buildWithCrc s = .next t ∨ exec .buildLong s = .next t)
    (hr : t.res.buf = some r) : ∃ d, buildCoff d + 3 ≤ d.length ∧ r = built d := by
  obtain h | h := h
  · simp only [exec, execBuildWithCrc] at h
    split at h <;> obtain rfl := finish_next h
    · exact nomatch hr
    · rename_i hgood
      exact ⟨s.bufin, (buildLengthBad_eq_false.mp (Bool.eq_false_iff.mpr hgood)).2.2, (Option.some.inj hr).symm⟩
  · simp only [exec, execBuildLong] at h
    split at h <;> obtain rfl := finish_next h
    · exact nomatch hr
    · refine ⟨longDraft s.hdr s.pay, ?_, (Option.some.inj hr).symm⟩
      have h6 := buildCoff_le (longDraft s.hdr s.pay)
      have hlen : (longDraft s.hdr s.pay).length = 15 + s.pay.length := by simp [longDraft, State.hdr]; omega
      omega

/-- A built buffer that begins with the marker, within the frame cap and of the length it declares, is a delivered frame. -/
theorem delivered_built {d : List Byte} (hroom : buildCoff d + 3 ≤ d.length) (h0 : byteAt (built d) 0 = Config.marker)
    (hcap : (built d).length ≤ Config.frameCap)
    (hdecl : if (byteAt (built d) 1).msb then (byteAt (built d) 2).toNat = (built d).length
      else (rd16 (built d) 4).toNat = (built d).length) : Delivered (built d) := by
  refine ⟨h0, ?_, hcap, ?_, hdecl⟩
  · rwa [buildCoff_built hroom, length_built]
  · rw [buildCoff_built hroom, byteAt_built_coff hroom, take_coff_built hroom]

/-! ## The frame so far -/

/-- Bytes that read as the first `n` of `r` are its first `n`. -/
theorem bytes_eq_take {m : Memory} {r : List Byte} {n : Nat} (hmax : n ≤ Config.pktMax) (hn : n ≤ r.length)
    (h : ∀ j, j < n → m.read j = byteAt r j) : m.bytes n = r.take n := by
  rw [← map_byteAt_range hn, Memory.bytes, Nat.min_eq_left hmax]
  exact List.map_congr_left fun j hj => h j (List.mem_range.mp hj)

/-- Past COFF the whole length field is stored (R93, R124). -/
theorem declaredSoFar_of_coff_lt (m : Memory) (short : Bool) {i : Nat} (h : coff short < i) :
    (declaredSoFar m short i).toNat = if short then (m.read 2).toNat else (field16 (m.read 4) (m.read 5)).toNat := by
  cases short with
  | true =>
    have h3 : 3 < i := h
    rw [declaredSoFar, if_pos rfl, if_pos (by omega), if_pos rfl, BitVec.toNat_setWidth_of_le (by omega)]
  | false =>
    have h6 : 6 < i := h
    rw [declaredSoFar, if_neg (by decide), if_pos (by omega), if_neg (by decide)]

/-- The first `k` bytes of `r`, and no more, are in flight. -/
structure Receiving (r : List Byte) (k : Nat) (s : State) : Prop where
  memory : MemoryInv s
  framer : FramerInv s
  framing : s.fs = .framing
  index : s.idx.val = k
  received : ∀ j, j < k → s.buf.read j = byteAt r j

section
variable {r : List Byte} {k : Nat} {s : State} (h : Receiving r k s)
include h

/-- An in-flight frame has its marker (R27). -/
theorem Receiving.pos : s.idx.val ≠ 0 := fun h0 => by
  have := h.framing
  simp [h.framer.phase.mpr h0] at this

/-- The next byte stored, BUF holds one byte more of `r`. -/
theorem Receiving.stored_read {j : Nat} (hj : j < k + 1) : (stored (byteAt r k) s).buf.read j = byteAt r j := by
  rw [stored_buf, h.index, Memory.read_write h.memory.1]
  split
  case isTrue hjk => rw [hjk]
  case isFalse hjk => exact h.received j (by omega)

/-- With the next byte stored, SHORT is that of `r`'s header byte (R24). -/
theorem Receiving.stored_short : (stored (byteAt r k) s).short = (byteAt r 1).msb := by
  have hk : k ≠ 0 := h.index ▸ h.pos
  rw [stored_variant h.memory.1 (h.framer.inFlight h.framing) h.pos, h.stored_read (by omega)]

theorem Receiving.stored_coff : coff (stored (byteAt r k) s).short = buildCoff r := by
  rw [h.stored_short, buildCoff_eq]
  rfl

/-- From COFF on CRC8R is the CRC8 of `r`'s header (R23). -/
theorem Receiving.stored_crc8r (hc : buildCoff r ≤ k) (hk : k < r.length) :
    (stored (byteAt r k) s).crc8r = crc8 (r.take (buildCoff r)) := by
  have h6 := buildCoff_le r
  rw [stored_headerCrc h.memory.1 (h.framer.inFlight h.framing), h.stored_coff, h.index, Nat.min_eq_right (by omega),
    bytes_eq_take (by simp only [Config.pktMax]; omega) (by omega) fun j hj => h.stored_read (by omega)]

/-- From COFF on DLEN is the length of a delivered `r` (R25). -/
theorem Receiving.stored_dlen (hr : Delivered r) (hc : buildCoff r ≤ k) : (stored (byteAt r k) s).dlen.toNat = r.length := by
  obtain ⟨-, -, -, -, hdecl⟩ := hr
  have hlt : coff (stored (byteAt r k) s).short < s.idx.val + 1 := by
    rw [h.stored_coff, h.index]; omega
  have hcoff := buildCoff_eq r
  rw [stored_length h.memory.1 (h.framer.inFlight h.framing), declaredSoFar_of_coff_lt _ _ hlt, h.stored_short]
  cases hs : (byteAt r 1).msb with
  | true =>
    rw [hs, if_pos rfl] at hdecl hcoff
    rw [if_pos rfl, h.stored_read (by omega)]
    exact hdecl
  | false =>
    rw [hs, if_neg (by decide)] at hdecl hcoff
    rw [if_neg (by decide), h.stored_read (by omega), h.stored_read (by omega)]
    exact hdecl

/-- A delivered frame passes the header check (R128). -/
theorem Receiving.header_good (hr : Delivered r) (hk : k < r.length) :
    headerBad (byteAt r k) (stored (byteAt r k) s) = false := by
  by_cases hc : s.idx.val = coff (stored (byteAt r k) s).short
  · rw [h.stored_coff, h.index] at hc
    have ⟨_, hroom, _, hcrc, _⟩ := hr
    have hbyte : byteAt r k = (stored (byteAt r k) s).crc8r := by rw [h.stored_crc8r hc.ge hk, ← hcrc, hc]
    have hlen : buildCoff r + 3 ≤ (stored (byteAt r k) s).dlen.toNat := by rw [h.stored_dlen hr hc.ge]; exact hroom
    refine Bool.eq_false_iff.mpr fun hbad => ?_
    obtain hne | hlt := (headerBad_eq_true (by rw [stored_idx, h.stored_coff, h.index, hc])).mp hbad
    · exact hne hbyte
    · rw [h.stored_coff] at hlt
      omega
  · exact headerBad_of_ne (by rwa [stored_idx])

/-- Before the last byte of a delivered frame the framer goes on. -/
theorem Receiving.feed_next (hr : Delivered r) (hk : k + 1 < r.length) :
    ∃ t, exec (.feed (byteAt r k)) s = .next t ∧ Receiving r (k + 1) t ∧ t.res.fstat = some .incomplete := by
  have good := h.header_good hr (by omega)
  have hidx := h.index
  obtain ⟨hbad, -⟩ | ⟨-, hc, hn, -⟩ | ⟨-, -, hcap, -⟩ | ⟨-, -, -, i, hi, e⟩ := frameByte_cases (byteAt r k) s
  · simp [good] at hbad
  · rw [h.stored_coff] at hc
    rw [h.stored_dlen hr (by omega)] at hn
    omega
  · obtain ⟨-, -, hmax, -⟩ := hr
    omega
  · have ht : exec (.feed (byteAt r k)) s =
        .next { stored (byteAt r k) s with idx := i, res := feedResult .incomplete none [] } := by
      rw [exec_feed, feedByte_framing h.framing, e]
    exact ⟨_, ht,
      { memory := exec_keeps_memoryInv h.memory ht
        framer := exec_keeps_framerInv h.memory h.framer ht
        framing := (stored_fs _ s).trans h.framing
        index := hi.trans (congrArg (· + 1) hidx)
        received := fun _ hj => h.stored_read hj }, rfl⟩

/-- The last byte of a delivered frame completes it, and PBUF then holds the frame (R126). -/
theorem Receiving.feed_last (hr : Delivered r) (hk : k + 1 = r.length) :
    ∃ t, exec (.feed (byteAt r k)) s = .next t ∧ t.res.fstat = some .ready ∧
      t.res.len = some (BitVec.ofNat 16 r.length) ∧ t.pbuf.bytes r.length = r := by
  have good := h.header_good hr (by omega)
  have hidx := h.index
  have ⟨_, hroom, hmax, _⟩ := hr
  have hlast : coff (stored (byteAt r k) s).short < s.idx.val ∧ s.idx.val + 1 = (stored (byteAt r k) s).dlen.toNat := by
    rw [h.stored_coff, h.stored_dlen hr (by omega)]
    omega
  obtain ⟨hbad, -⟩ | ⟨-, -, -, e⟩ | ⟨-, hn, -⟩ | ⟨-, hn, -⟩ := frameByte_cases (byteAt r k) s
  case inl => simp [good] at hbad
  case inr.inr.inl => exact absurd hlast hn
  case inr.inr.inr => exact absurd hlast hn
  rw [exec_feed, feedByte_framing h.framing, e, hidx, hk]
  refine ⟨_, rfl, rfl, rfl, ?_⟩
  have hfit : r.length ≤ Config.pktMax := Nat.le_succ_of_le hmax
  have hcopied : ∀ j, j < r.length → (Memory.copyFrom s.pbuf (stored (byteAt r k) s).buf r.length).read j = byteAt r j :=
    fun j hj => by rw [Memory.read_copyFrom h.memory.2 j hfit, if_pos hj, h.stored_read (by omega)]
  simp only [completeFrame, stored_pbuf]
  rw [bytes_eq_take hfit le_rfl hcopied, List.take_length]

end

/-- The marker, fed from SEEKING, is a frame's first byte (R125). -/
theorem feed_marker {u : State} (hm : MemoryInv u) (hu : u.fs = .seeking) {r : List Byte} (h0 : byteAt r 0 = Config.marker) :
    ∃ t, exec (.feed (byteAt r 0)) u = .next t ∧ Receiving r 1 t ∧ t.res.fstat = some .incomplete := by
  have ht : exec (.feed (byteAt r 0)) u =
      .next { seekByte Config.marker u with res := feedResult .incomplete none [] } := by
    rw [exec_feed, feedByte_seeking hu, h0]
  have hframer : FramerInv (seekByte Config.marker u) :=
    ⟨by simp [seekByte_marker], fun _ => inFlight_opened hm.1⟩
  refine ⟨_, ht, ?_, rfl⟩
  exact {
    memory := exec_keeps_memoryInv hm ht
    framer := framerInv_withPorts hframer _ _ _
    framing := by simp [seekByte_marker]
    index := by simp [seekByte_marker]
    received := fun j hj => by
      obtain rfl : j = 0 := by omega
      simp only [seekByte_marker]
      rw [h0, Memory.read_write_self hm.1] }

/-! ## Feeding a whole buffer -/

/-- Feeding one more byte. -/
theorem feeds_concat {b : Byte} {s t : State} (hb : exec (.feed b) s = .next t) : ∀ {bs : List Byte} {u : State},
    feeds bs u = some s → feeds (bs ++ [b]) u = some t
  | [], u, h => by
    obtain rfl : u = s := Option.some.inj h
    simp [feeds, hb]
  | c :: bs, u, h => by
    obtain ⟨v, hv⟩ := exec_goes (.feed c) u
    simp only [feeds, hv, List.cons_append] at h ⊢
    exact feeds_concat hb h

theorem feeds_take_succ {r : List Byte} {k : Nat} {u s t : State} (hk : k < r.length) (h : feeds (r.take k) u = some s)
    (hb : exec (.feed (byteAt r k)) s = .next t) : feeds (r.take (k + 1)) u = some t := by
  have hbyte : byteAt r k = r[k] := List.getD_eq_getElem r 0 hk
  rw [List.take_succ_eq_append_getElem hk, ← hbyte]
  exact feeds_concat hb h

/-- The first bytes of a delivered frame, short of the last, fed from SEEKING, leave the framer receiving that frame. -/
theorem feeds_take {r : List Byte} (hr : Delivered r) {u : State} (hm : MemoryInv u) (hu : u.fs = .seeking) (k : Nat)
    (hk : k + 1 < r.length) :
    ∃ v, feeds (r.take (k + 1)) u = some v ∧ Receiving r (k + 1) v ∧ v.res.fstat = some .incomplete := by
  induction k with
  | zero =>
    obtain ⟨t, ht, hrec, hres⟩ := feed_marker hm hu hr.1
    exact ⟨t, feeds_take_succ (by omega) rfl ht, hrec, hres⟩
  | succ k ih =>
    obtain ⟨s, hs, hrec, -⟩ := ih (by omega)
    obtain ⟨t, ht, hrec', hres⟩ := hrec.feed_next hr hk
    exact ⟨t, feeds_take_succ (by omega) hs ht, hrec', hres⟩

/-- A delivered frame, fed whole from SEEKING, is staged as it is. -/
theorem feeds_delivered {r : List Byte} (hr : Delivered r) {u : State} (hm : MemoryInv u) (hu : u.fs = .seeking) :
    ∃ v, feeds r u = some v ∧ v.res.fstat = some .ready ∧ v.res.len = some (BitVec.ofNat 16 r.length) ∧
      v.pbuf.bytes r.length = r := by
  have ⟨_, hroom, _⟩ := hr
  obtain ⟨k, hk⟩ : ∃ k, r.length = k + 2 := ⟨r.length - 2, by omega⟩
  obtain ⟨s, hs, hrec, -⟩ := feeds_take hr hm hu k (by omega)
  obtain ⟨t, ht, hready, hlen, hbytes⟩ := hrec.feed_last hr hk.symm
  have hall : feeds (r.take (k + 2)) u = some t := feeds_take_succ (by omega) hs ht
  rw [← hk, List.take_length] at hall
  exact ⟨t, hall, hready, hlen, hbytes⟩

/-- Settles O24: a serialiser's buffer is a delivered frame, which the framer takes in byte by byte and stages. -/
theorem builtFramesFrameBack : Obligations.BuiltFramesFrameBack := by
  intro s t u r hbuild hres h0 hcap hdecl hm hu
  obtain ⟨d, hroom, rfl⟩ := built_of_serialised hbuild hres
  have hr : Delivered (built d) := delivered_built hroom h0 hcap hdecl
  refine ⟨fun k hk => ?_, feeds_delivered hr hm hu⟩
  obtain ⟨v, hv, -, hinc⟩ := feeds_take hr hm hu k hk
  exact ⟨v, hv, hinc⟩

end Sys2Proof.Machine
end

section
/-! PROOFS. A one-byte change of a buffer whose CRC16 passes (spec/41_packet_codec.md R177). A CRC16 step is one-to-one in the
register and in the byte, so a change before the CRC16 changes the computed CRC, and a change in it the stored one. -/

namespace Sys2Proof.Machine

/-! ## The CRC16 after a changed byte -/

/-- Equal results of a step had equal registers once the byte was folded in: the eight rounds are one-to-one. -/
theorem crc16Step_folded_eq {c d : BitVec 16} {x y : Byte} (h : crc16Step c x = crc16Step d y) :
    c ^^^ (x.setWidth 16 <<< 8) = d ^^^ (y.setWidth 16 <<< 8) := by
  unfold crc16Step at h
  iterate 8 replace h := crc16Round_injective h
  exact h

theorem crc16Step_register_injective {c d : BitVec 16} {x : Byte} (h : crc16Step c x = crc16Step d x) : c = d :=
  (BitVec.xor_left_inj _).mp (crc16Step_folded_eq h)

theorem crc16Step_byte_injective {c : BitVec 16} {x y : Byte} (h : crc16Step c x = crc16Step c y) : x = y := by
  have hshift : x.setWidth 16 <<< 8 = y.setWidth 16 <<< 8 := (BitVec.xor_right_inj _).mp (crc16Step_folded_eq h)
  bv_omega

theorem crc16From_injective {l : List Byte} : ∀ {c d : BitVec 16}, crc16From c l = crc16From d l → c = d := by
  induction l with
  | nil => exact id
  | cons b l ih => exact fun h => crc16Step_register_injective (ih h)

/-- Another byte at one offset gives another CRC16. -/
theorem crc16From_set_ne {l : List Byte} {x : Byte} : ∀ {c : BitVec 16} {i : Nat}, i < l.length → x ≠ byteAt l i →
    crc16From c (l.set i x) ≠ crc16From c l := by
  induction l with
  | nil => exact fun hi => absurd hi (Nat.not_lt_zero _)
  | cons b l ih =>
    intro c i hi hx
    cases i with
    | zero => exact fun h => hx (crc16Step_byte_injective (crc16From_injective h))
    | succ i => exact ih (Nat.lt_of_succ_lt_succ hi) hx

/-! ## The stored field after a changed byte -/

theorem rd16_set_ne {b : List Byte} {i j : Nat} (h : j ≠ i) (h' : j + 1 ≠ i) (x : Byte) :
    rd16 (b.set i x) j = rd16 b j := by
  simp [rd16, byteAt_set_ne h, byteAt_set_ne h']

theorem byteAt_eq_lo8_rd16 (b : List Byte) (j : Nat) : byteAt b j = lo8 (rd16 b j) := (lo8_field16 _ _).symm

theorem byteAt_succ_eq_hi8_rd16 (b : List Byte) (j : Nat) : byteAt b (j + 1) = hi8 (rd16 b j) := (hi8_field16 _ _).symm

/-- A changed byte of a field changes the field. -/
theorem rd16_set_changed {b : List Byte} {i j : Nat} {x : Byte} (hi : i < b.length) (hij : i = j ∨ i = j + 1)
    (hx : x ≠ byteAt b i) : rd16 (b.set i x) j ≠ rd16 b j := by
  intro h
  refine hx ((byteAt_set_self hi x).symm.trans ?_)
  obtain rfl | rfl := hij
  · rw [byteAt_eq_lo8_rd16, byteAt_eq_lo8_rd16, h]
  · rw [byteAt_succ_eq_hi8_rd16, byteAt_succ_eq_hi8_rd16, h]

theorem byteAt_take {b : List Byte} {n i : Nat} (hi : i < n) : byteAt (b.take n) i = byteAt b i := by
  simp [byteAt, List.getD, List.getElem?_take_of_lt hi]

/-- What the CRC16 check compares (R122). -/
theorem crc16Ok_eq_true {b : List Byte} :
    crc16Ok b = true ↔ 2 ≤ b.length ∧ crc16 (b.take (b.length - 2)) = rd16 b (b.length - 2) := by
  simp [crc16Ok_eq]

/-- Settles O19: the changed byte is one that the CRC16 covers, or one of the CRC16 itself. -/
theorem singleByteChangeFailsCrc16 : Obligations.SingleByteChangeFailsCrc16 := by
  intro b i x hok hi hx
  obtain ⟨h2, hcrc⟩ := crc16Ok_eq_true.mp hok
  refine Bool.eq_false_iff.mpr fun hok' => ?_
  obtain ⟨-, hcrc'⟩ := crc16Ok_eq_true.mp hok'
  rw [List.length_set, List.take_set] at hcrc'
  by_cases hbody : i < b.length - 2
  · rw [rd16_set_ne (by omega) (by omega), ← hcrc] at hcrc'
    have hbyte : byteAt (b.take (b.length - 2)) i = byteAt b i := byteAt_take hbody
    exact crc16From_set_ne (by simp; omega) (hbyte ▸ hx) hcrc'
  · rw [List.set_eq_of_length_le (by simp; omega), hcrc] at hcrc'
    exact rd16_set_changed hi (by omega) hx hcrc'.symm

end Sys2Proof.Machine
end

section
/-! PROOFS. IDENTIFY by family (spec/41_packet_codec.md R150..R169): how a buffer is classified in each case, and the codes that
the discriminators select, as a table per family. -/

namespace Sys2Proof.Machine

/-! ## The discriminators -/

/-- The known command bytes with their kinds and codes (R155..R161). -/
def shortKindTable : List (Byte × PacketKind × BitVec 4) :=
  [(0x03, .motionShort, 1), (0x04, .motionLong, 2), (0x05, .onlineDetect, 3), (0x06, .reqX6, 4), (0x07, .nfcDetect, 5),
    (0x08, .setFilamentInfo, 6), (0x20, .heartbeat, 7)]

/-- The known types with their kinds and codes (R163..R167). -/
def longKindTable : List (BitVec 16 × PacketKind × BitVec 4) :=
  [(0x021A, .mcOnline, 9), (0x0211, .readFilamentInfo, 10), (0x0218, .setFilamentInfoV2, 11), (0x0103, .version, 12),
    (0x0402, .serialNumber, 13)]

theorem shortKind_of_mem_table : ∀ p ∈ shortKindTable, shortKind p.1 = p.2.1 ∧ p.2.1.code = p.2.2 := by decide

theorem longKind_of_mem_table : ∀ p ∈ longKindTable, longKind p.1 = p.2.1 ∧ p.2.1.code = p.2.2 := by decide

theorem shortKind_of_not_table {x : Byte} (h : ∀ p ∈ shortKindTable, x ≠ p.1) : shortKind x = .shortOther := by
  simp only [shortKindTable, List.forall_mem_cons] at h
  obtain ⟨h3, h4, h5, h6, h7, h8, h20, -⟩ := h
  rw [shortKind_eq, if_neg h3, if_neg h4, if_neg h5, if_neg h6, if_neg h7, if_neg h8, if_neg h20]

theorem longKind_of_not_table {t : BitVec 16} (h : ∀ p ∈ longKindTable, t ≠ p.1) : longKind t = .longOther := by
  simp only [longKindTable, List.forall_mem_cons] at h
  obtain ⟨honline, hread, hset, hversion, hserial, -⟩ := h
  rw [longKind_eq, if_neg honline, if_neg hread, if_neg hset, if_neg hversion, if_neg hserial]

theorem shortKind_ne_none (x : Byte) : shortKind x ≠ .none := by
  unfold shortKind
  split_ifs <;> exact PacketKind.noConfusion

theorem longKind_ne_none (t : BitVec 16) : longKind t ≠ .none := by
  unfold longKind
  split_ifs <;> exact PacketKind.noConfusion

/-! ## The classification, case by case -/

section
variable {b : List Byte}

theorem classify_of_crc16_bad (hc : crc16Ok b = false) : classify b = (.none, none) := by
  simp [classify, hc]

theorem classify_of_short (hc : crc16Ok b = true) (hs : byteAt b 1 = Config.shortHeader) (h7 : 7 ≤ b.length) :
    classify b = (shortKind (byteAt b 4), some ((byteAt b 4).setWidth 32)) := by
  simp [classify, hc, hs, Nat.not_lt.mpr h7]

theorem classify_of_long (hc : crc16Ok b = true) (hl : byteAt b 1 = Config.longHeader) (h15 : 15 ≤ b.length) :
    classify b = (longKind (rd16 b 11), some ((rd16 b 11).setWidth 32)) := by
  have hne : Config.longHeader ≠ Config.shortHeader := by decide
  simp [classify, hc, hl, hne, Nat.not_lt.mpr h15]

theorem classify_of_noDiscriminator (hc : crc16Ok b = true) (hd : noDiscriminator b = true) :
    classify b = (.unknown, none) := by
  obtain ⟨hc', -⟩ | ⟨-, -, hk⟩ | ⟨-, hd', -⟩ | ⟨-, hd', -⟩ := classify_cases b
  · exact absurd hc (by simp [hc'])
  · exact hk
  all_goals exact absurd hd (by simp [hd'])

/-- A buffer whose CRC16 passes is not NONE. -/
theorem classify_ne_none (hc : crc16Ok b = true) : (classify b).1 ≠ .none := by
  obtain ⟨hc', -⟩ | ⟨-, -, hk⟩ | ⟨-, -, -, hk⟩ | ⟨-, -, -, hk⟩ := classify_cases b
  · exact absurd hc (by simp [hc'])
  · rw [hk]; exact PacketKind.noConfusion
  · rw [hk]; exact shortKind_ne_none _
  · rw [hk]; exact longKind_ne_none _

end

/-! ## IDENTIFY -/

/-- IDENTIFY of a buffer that fits answers its length and its classification. -/
theorem exec_identify_of_le {s : State} (h : s.bufin.length ≤ 1000) :
    exec .identify s =
      .next { s with res := { Result.ofStatus .ok with
        kind := some (classify s.bufin).1, len := some (BitVec.ofNat 16 s.bufin.length), val := (classify s.bufin).2 } } :=
  identified_of_le h _ _ s

/-- Settles O26: a short-family frame is classified by its command byte, which is in the table of known ones or is not. -/
theorem identifyShortFamily : Obligations.IdentifyShortFamily := by
  intro s b answers table h7 hmax hc hs
  have hid := exec_identify_of_le (s := s) hmax
  rw [classify_of_short hc hs h7] at hid
  refine ⟨fun p hp hcmd => ?_, fun hother => ⟨?_, rfl⟩⟩
  · obtain ⟨hkind, hcode⟩ := shortKind_of_mem_table p hp
    exact ⟨by rw [← hkind, ← hcmd]; exact hid, hcode⟩
  · rw [← shortKind_of_not_table hother]
    exact hid

/-- Settles O27: a long-family frame is classified by its type, which is in the table of known ones or is not. -/
theorem identifyLongFamily : Obligations.IdentifyLongFamily := by
  intro s b answers table h15 hmax hc hl
  have hid := exec_identify_of_le (s := s) hmax
  rw [classify_of_long hc hl h15] at hid
  refine ⟨fun p hp htype => ?_, fun hother => ⟨?_, rfl⟩⟩
  · obtain ⟨hkind, hcode⟩ := longKind_of_mem_table p hp
    exact ⟨by rw [← hkind, ← htype]; exact hid, hcode⟩
  · rw [← longKind_of_not_table hother]
    exact hid

/-- Settles O28: the CRC16 check needs two bytes; a buffer that fits is classified, and a longer one is not. -/
theorem identifyNoneAndUnknown : Obligations.IdentifyNoneAndUnknown := by
  intro s b n
  refine ⟨fun hlt => ?_, fun hmax hc => ?_, fun hgt => identified_of_gt hgt _ _ s, fun hmax hc hd => ?_, rfl, rfl⟩
  · exact Bool.eq_false_iff.mpr fun hok => Nat.not_lt.mpr (crc16Ok_eq_true.mp hok).1 hlt
  · rw [exec_identify_of_le hmax, classify_of_crc16_bad hc]
    rfl
  · rw [exec_identify_of_le hmax, classify_of_noDiscriminator hc (noDiscriminator_eq_true.mpr hd)]
    rfl

end Sys2Proof.Machine
end

section
/-! PROOFS. The serialisers and PARSE_LONG (spec/41_packet_codec.md R170..R176): what each answers, that building a built buffer
gives it back, and a long packet byte by byte. -/

namespace Sys2Proof.Machine

/-! ## BUILD_WITH_CRC -/

theorem exec_buildWithCrc_fits {s : State} (h : buildLengthBad s.bufin = false) :
    exec .buildWithCrc s =
      .next { s with res := { Result.ofStatus .ok with
        buf := some (built s.bufin), len := some (BitVec.ofNat 16 s.bufin.length) } } := by
  simp [exec, execBuildWithCrc, h]

theorem exec_buildWithCrc_bad {s : State} (h : buildLengthBad s.bufin = true) :
    exec .buildWithCrc s = .next { s with res := Result.ofStatus .eLength } := by
  simp [exec, execBuildWithCrc, h, raise_eq]

theorem set_byteAt_self (b : List Byte) (i : Nat) : b.set i (byteAt b i) = b := by
  by_cases h : i < b.length
  · simp [byteAt, h]
  · exact List.set_eq_of_length_le (Nat.not_lt.mp h)

/-- Writing a field's own value changes nothing. -/
theorem wr16_rd16_self (b : List Byte) (i : Nat) : wr16 b i (rd16 b i) = b := by
  rw [wr16, ← byteAt_eq_lo8_rd16, ← byteAt_succ_eq_hi8_rd16, set_byteAt_self, set_byteAt_self]

/-- The header check of a built buffer (R176). -/
theorem crc8_take_built {b : List Byte} (h : buildCoff b + 3 ≤ b.length) :
    crc8 ((built b).take (buildCoff (built b))) = byteAt (built b) (buildCoff (built b)) := by
  rw [buildCoff_built h, take_coff_built h, byteAt_built_coff h]

/-- A buffer that holds both its CRCs is built already. -/
theorem built_eq_self {b : List Byte} (hhead : crc8 (b.take (buildCoff b)) = byteAt b (buildCoff b))
    (htail : rd16 b (b.length - 2) = crc16 (b.take (b.length - 2))) : built b = b := by
  have hh : withHeaderCrc b = b := by rw [withHeaderCrc, hhead, set_byteAt_self]
  rw [built, hh, withTailCrc_eq, ← htail, wr16_rd16_self]

/-- Building twice gives the same buffer (R173). -/
theorem built_built {b : List Byte} (h : buildCoff b + 3 ≤ b.length) : built (built b) = built b :=
  built_eq_self (crc8_take_built h) (by rw [length_built]; exact rd16_built h)

/-- A built buffer passes the length test that its draft passed. -/
theorem buildLengthBad_built {b : List Byte} (h : buildLengthBad b = false) : buildLengthBad (built b) = false := by
  have hb := buildLengthBad_eq_false.mp h
  rwa [buildLengthBad_eq_false, length_built, buildCoff_built hb.2.2]

/-- Settles O21: a buffer that passes the length test is built, and building it again finds both CRCs in place. -/
theorem buildWithCrcResult : Obligations.BuildWithCrcResult := by
  intro s b n coff
  have hcoff : coff = buildCoff b := (buildCoff_eq b).symm
  rw [hcoff]
  refine ⟨fun h2 hmax hroom => ?_, fun hbad => exec_buildWithCrc_bad ?_⟩
  · have hfits : buildLengthBad b = false := buildLengthBad_eq_false.mpr ⟨h2, hmax, hroom⟩
    refine ⟨built b, exec_buildWithCrc_fits hfits, length_built b, fun j _ hc h2 h1 => ?_, byteAt_built_coff hroom,
      rd16_built hroom, fun u hu => ?_⟩
    · exact byteAt_built_ne hc h2 (by omega)
    · have hfits' : buildLengthBad u.bufin = false := by rw [hu]; exact buildLengthBad_built hfits
      rw [exec_buildWithCrc_fits hfits', hu, built_built hroom, length_built]
  · by_contra hgood
    obtain ⟨h2, hmax, hroom⟩ := buildLengthBad_eq_false.mp (Bool.eq_false_iff.mpr hgood)
    exact hbad.elim (Nat.not_lt.mpr h2) (·.elim (Nat.not_lt.mpr hmax) (Nat.not_lt.mpr hroom))

/-! ## BUILD_LONG -/

theorem exec_buildLong_fits {s : State} (h : s.pay.length ≤ 984) :
    exec .buildLong s =
      .next { s with res := { Result.ofStatus .ok with
        buf := some (built (longDraft s.hdr s.pay)), len := some (BitVec.ofNat 16 (15 + s.pay.length)) } } := by
  simp [exec, execBuildLong, Nat.not_lt.mpr h]

theorem exec_buildLong_long {s : State} (h : 984 < s.pay.length) :
    exec .buildLong s = .next { s with res := Result.ofStatus .eLength } := by
  simp [exec, execBuildLong, h, raise_eq]

theorem byteAt_append_left {a : List Byte} {j : Nat} (h : j < a.length) (c : List Byte) : byteAt (a ++ c) j = byteAt a j :=
  List.getD_append _ _ _ _ h

theorem byteAt_append_right {a : List Byte} {j k : Nat} (h : j = a.length + k) (c : List Byte) :
    byteAt (a ++ c) j = byteAt c k := by
  subst h
  unfold byteAt
  rw [List.getD_append_right _ _ _ _ (Nat.le_add_right _ _), Nat.add_sub_cancel_left]

@[simp] theorem length_hdr (s : State) : s.hdr.length = 11 := by simp [State.hdr]

section
variable {hdr pay : List Byte}

theorem length_longDraft (hl : hdr.length = 11) : (longDraft hdr pay).length = 15 + pay.length := by
  simp [longDraft, hl]; omega

/-- A byte of the draft outside package_length is that of preamble, sub-header, payload and reserved bytes in a row. -/
theorem byteAt_longDraft {j : Nat} (h4 : j ≠ 4) (h5 : j ≠ 5) :
    byteAt (longDraft hdr pay) j = byteAt ([Config.marker, Config.longHeader] ++ (hdr ++ (pay ++ [0, 0]))) j := by
  rw [longDraft, byteAt_wr16_ne h4 h5]
  simp

theorem buildCoff_longDraft : buildCoff (longDraft hdr pay) = 6 := by
  rw [buildCoff_eq, byteAt_longDraft (by decide) (by decide), byteAt_append_left (by decide)]
  rfl

/-- BUILD_WITH_CRC leaves the draft alone before the CRC16, but for the header CRC8. -/
theorem byteAt_longPacket {j : Nat} (hl : hdr.length = 11) (h6 : j ≠ 6) (hj : j < 13 + pay.length) :
    byteAt (built (longDraft hdr pay)) j = byteAt (longDraft hdr pay) j := by
  have hlen := length_longDraft (pay := pay) hl
  exact byteAt_built_ne (by rwa [buildCoff_longDraft]) (by omega) (by omega)

theorem byteAt_longPacket_preamble {j : Nat} (hl : hdr.length = 11) (hj : j < 2) :
    byteAt (built (longDraft hdr pay)) j = byteAt [Config.marker, Config.longHeader] j := by
  rw [byteAt_longPacket hl (by omega) (by omega), byteAt_longDraft (by omega) (by omega)]
  exact byteAt_append_left hj _

theorem byteAt_longPacket_hdr {j : Nat} (hl : hdr.length = 11) (hj : j < 11) (h2 : j ≠ 2) (h3 : j ≠ 3) (h4 : j ≠ 4) :
    byteAt (built (longDraft hdr pay)) (2 + j) = byteAt hdr j := by
  rw [byteAt_longPacket hl (by omega) (by omega), byteAt_longDraft (by omega) (by omega), byteAt_append_right (k := j) (by simp)]
  exact byteAt_append_left (by omega) _

theorem byteAt_longPacket_pay {j : Nat} (hl : hdr.length = 11) (hj : j < pay.length) :
    byteAt (built (longDraft hdr pay)) (13 + j) = byteAt pay j := by
  rw [byteAt_longPacket hl (by omega) (by omega), byteAt_longDraft (by omega) (by omega),
    byteAt_append_right (k := 11 + j) (by simp; omega), byteAt_append_right (k := j) (by omega)]
  exact byteAt_append_left hj _

/-- The package_length of a long packet (R174). -/
theorem rd16_longPacket_length (hl : hdr.length = 11) :
    rd16 (built (longDraft hdr pay)) 4 = BitVec.ofNat 16 (15 + pay.length) := by
  rw [rd16, byteAt_longPacket hl (by omega) (by omega), byteAt_longPacket hl (by omega) (by omega)]
  exact rd16_wr16_self (by simp; omega) _

end

/-- Settles O22: the draft's bytes, with BUILD_WITH_CRC's two CRCs at offset 6 and at the end. -/
theorem buildLongResult : Obligations.BuildLongResult := by
  intro s m
  refine ⟨fun hm => ⟨built (longDraft s.hdr s.pay), exec_buildLong_fits hm, ?_⟩, exec_buildLong_long⟩
  have hl := length_hdr s
  have hlen : (longDraft s.hdr s.pay).length = 15 + m := length_longDraft hl
  have hcoff := buildCoff_longDraft (hdr := s.hdr) (pay := s.pay)
  have hroom : buildCoff (longDraft s.hdr s.pay) + 3 ≤ (longDraft s.hdr s.pay).length := by omega
  refine ⟨by rw [length_built, hlen], byteAt_longPacket_preamble hl (by decide), byteAt_longPacket_preamble hl (by decide),
    byteAt_longPacket_hdr (j := 0) hl (by decide) (by decide) (by decide) (by decide),
    byteAt_longPacket_hdr (j := 1) hl (by decide) (by decide) (by decide) (by decide), ?_, ?_,
    fun j h5 h11 => byteAt_longPacket_hdr hl h11 (by omega) (by omega) (by omega),
    fun j hj => byteAt_longPacket_pay hl hj, ?_⟩
  · rw [rd16_longPacket_length hl, BitVec.toNat_ofNat]
    exact Nat.mod_eq_of_lt (by omega)
  · have := crc8_take_built hroom
    rw [buildCoff_built hroom, hcoff] at this
    exact this.symm
  · have := rd16_built hroom
    rwa [show (longDraft s.hdr s.pay).length - 2 = 13 + m by omega] at this

/-! ## Both serialisers -/

/-- A serialiser's buffer is one that IDENTIFY takes. -/
theorem length_le_of_serialised {s t : State} {r : List Byte}
    (h : exec .buildWithCrc s = .next t ∨ exec .buildLong s = .next t) (hr : t.res.buf = some r) : r.length ≤ 1000 := by
  obtain h | h := h
  · cases hbad : buildLengthBad s.bufin with
    | false =>
      obtain rfl := Host.Outcome.next.inj ((exec_buildWithCrc_fits hbad).symm.trans h)
      obtain rfl := Option.some.inj hr
      rw [length_built]
      exact (buildLengthBad_eq_false.mp hbad).2.1
    | true =>
      obtain rfl := Host.Outcome.next.inj ((exec_buildWithCrc_bad hbad).symm.trans h)
      exact nomatch hr
  · by_cases hm : s.pay.length ≤ 984
    · obtain rfl := Host.Outcome.next.inj ((exec_buildLong_fits hm).symm.trans h)
      obtain rfl := Option.some.inj hr
      rw [length_built, length_longDraft (length_hdr s)]
      omega
    · obtain rfl := Host.Outcome.next.inj ((exec_buildLong_long (Nat.not_le.mp hm)).symm.trans h)
      exact nomatch hr

/-- Settles O20: the answer is a built buffer of at most 1000 bytes, which holds both CRCs. -/
theorem builtBuffersPassBothChecks : Obligations.BuiltBuffersPassBothChecks := by
  intro s t r h hr
  have hmax := length_le_of_serialised h hr
  obtain ⟨d, hroom, rfl⟩ := built_of_serialised h hr
  refine ⟨crc8_take_built hroom, crc16Ok_built hroom, fun u hu => ?_⟩
  rw [← hu] at hmax
  refine ⟨_, _, exec_identify_of_le hmax, rfl, ?_⟩
  rw [hu]
  exact classify_ne_none (crc16Ok_built hroom)

/-! ## PARSE_LONG -/

theorem exec_parseLong_fits {s : State} (h15 : 15 ≤ s.bufin.length) (hmax : s.bufin.length ≤ 1000) :
    exec .parseLong s = .next { s with res := { Result.ofStatus .ok with view := some (longView s.bufin) } } := by
  simp [exec, execParseLong, Nat.not_lt.mpr h15, Config.pktMax, Nat.not_lt.mpr hmax]

theorem exec_parseLong_bad {s : State} (h : s.bufin.length < 15 ∨ 1000 < s.bufin.length) :
    exec .parseLong s = .next { s with res := Result.ofStatus .eLength } := by
  simp [exec, execParseLong, Config.pktMax, h, raise_eq]

theorem byteAt_take_drop {b : List Byte} {k n j : Nat} (hj : j < n) : byteAt ((b.drop k).take n) j = byteAt b (k + j) := by
  simp [byteAt, List.getD, hj]

/-- Settles O25: each field of the view is a little-endian read, and the data are the bytes after the sub-header. -/
theorem parseLongView : Obligations.ParseLongView := by
  intro s b n
  refine ⟨fun h15 hmax => ⟨longView b, exec_parseLong_fits h15 hmax, ?_⟩, exec_parseLong_bad⟩
  rw [longView_eq]
  refine ⟨rd16_toNat b 2, rd16_toNat b 4, rfl, rd16_toNat b 7, rd16_toNat b 9, rd16_toNat b 11, ?_,
    fun j hj => byteAt_take_drop hj, ?_⟩
  · simp only [List.length_take, List.length_drop]
    omega
  · rw [BitVec.toNat_ofNat]
    exact Nat.mod_eq_of_lt (by omega)

/-- Buffers of one length that agree byte by byte are equal. -/
theorem eq_of_byteAt_eq {a b : List Byte} (hlen : a.length = b.length) (h : ∀ j, j < b.length → byteAt a j = byteAt b j) :
    a = b := by
  refine List.ext_getElem hlen fun j ha hb => ?_
  simpa [byteAt, ha, hb] using h j hb

/-- Settles O23: PARSE_LONG reads each field at the offset where BUILD_LONG put it. -/
theorem parseLongOfBuildLong : Obligations.ParseLongOfBuildLong := by
  intro s t u r hbuild hres hu
  obtain ⟨hfits, hlong⟩ := buildLongResult s
  by_cases hm : s.pay.length ≤ 984
  case neg =>
    obtain rfl := Host.Outcome.next.inj ((hlong (Nat.not_le.mp hm)).symm.trans hbuild)
    exact nomatch hres
  obtain ⟨r', hexec, hlen, -, -, h2, h3, hplen, -, hhdr, hpay, -⟩ := hfits hm
  obtain rfl := Host.Outcome.next.inj (hexec.symm.trans hbuild)
  obtain rfl := Option.some.inj hres
  obtain ⟨w, hparse, hnum, hplen', -, htarget, hsource, htype, hdlen, hdatas, hdl⟩ :=
    (parseLongView u).1 (by rw [hu]; omega) (by rw [hu]; omega)
  rw [hu] at hnum hplen' htarget hsource htype hdlen hdatas hdl
  have hm' : r'.length - 15 = s.pay.length := by omega
  rw [hm'] at hdlen hdatas hdl
  have field {v : BitVec 16} {i j : Nat} (hv : v.toNat = (byteAt r' i).toNat + 256 * (byteAt r' (i + 1)).toNat)
      (hlo : byteAt r' i = byteAt s.hdr j) (hhi : byteAt r' (i + 1) = byteAt s.hdr (j + 1)) : v = rd16 s.hdr j :=
    BitVec.eq_of_toNat_eq (by rw [hv, hlo, hhi, rd16_toNat])
  refine ⟨_, w, hparse, rfl, field hnum h2 h3, ?_,
    field htarget (hhdr 5 (by decide) (by decide)) (hhdr 6 (by decide) (by decide)),
    field hsource (hhdr 7 (by decide) (by decide)) (hhdr 8 (by decide) (by decide)),
    field htype (hhdr 9 (by decide) (by decide)) (hhdr 10 (by decide) (by decide)), ?_, hdl⟩
  · rw [hplen', ← hplen, rd16_toNat]
  · exact eq_of_byteAt_eq hdlen fun j hj => (hdatas j hj).trans (hpay j hj)

end Sys2Proof.Machine
end

section
/-! PROOFS. The sensor multiplexer (spec/42_sensor_mux.md R190..R201): the two limits of a sanitised voltage and of a written
meters value, presence, the encoder delta, and the independence of the channels under TICK. -/

namespace Sys2Proof.F32

/-! ## Comparing with a range -/

/-- A NaN is below nothing. -/
theorem lt_of_isNaN_left {x : F32} (h : x.isNaN = true) (y : F32) : lt x y = false := by
  simp [lt, h]

/-- Nothing is below a NaN. -/
theorem lt_of_isNaN_right {y : F32} (h : y.isNaN = true) (x : F32) : lt x y = false := by
  simp [lt, h]

theorem lt_eq_false_of_le {x y : F32} (h : le y x = true) : lt x y = false := by
  obtain ⟨hy, hx, hle⟩ := le_eq_true.mp h
  exact (lt_eq_false hx hy).mpr hle

/-- A value above a range is not below it. -/
theorem not_below_of_above {lo hi x : F32} (hr : le lo hi = true) (h : lt hi x = true) : lt x lo = false := by
  obtain ⟨hlo, -, hle⟩ := le_eq_true.mp hr
  obtain ⟨-, hx, hlt⟩ := lt_eq_true.mp h
  exact (lt_eq_false hx hlo).mpr (by omega)

/-! ## The clamp (spec/00_scope.md R14), case by case -/

theorem clampf_of_isNaN {x : F32} (h : x.isNaN = true) (lo hi : F32) : clampf x lo hi = Config.zero := by
  simp [clampf, lt_of_isNaN_left h, lt_of_isNaN_right h, h]

theorem clampf_of_below {x lo : F32} (h : lt x lo = true) (hi : F32) : clampf x lo hi = lo := by
  simp [clampf, h]

theorem clampf_of_above {x lo hi : F32} (hr : le lo hi = true) (h : lt hi x = true) : clampf x lo hi = hi := by
  simp [clampf, not_below_of_above hr h, h]

theorem clampf_of_within {x lo hi : F32} (hlo : le lo x = true) (hhi : le x hi = true) : clampf x lo hi = x := by
  simp [clampf, lt_eq_false_of_le hlo, lt_eq_false_of_le hhi, (le_eq_true.mp hhi).1]

end Sys2Proof.F32

namespace Sys2Proof.Machine

/-! ## WR_METERS and WR_COLOR -/

/-- Each colour is its byte of operand A, R lowest (R201). -/
theorem colorOf_toNat (a : Word) :
    (colorOf a).r.toNat = a.toNat % 256 ∧ (colorOf a).g.toNat = a.toNat / 256 % 256 ∧
      (colorOf a).b.toNat = a.toNat / 65536 % 256 ∧ (colorOf a).a.toNat = a.toNat / 16777216 := by
  have ha := a.isLt
  simp only [colorOf, BitVec.extractLsb'_toNat, Nat.shiftRight_eq_div_pow, true_and]
  omega

/-- Settles O42, by the cases of the clamp to 0.0..3000.0 and the bytes of the colour operand. -/
theorem wrMetersAndWrColor : Obligations.WrMetersAndWrColor := by
  intro s ch c hc
  have hrange : F32.le Config.zero Config.metersMax = true := by decide +kernel
  exact ⟨⟨_, exec_wrMeters hc s, fun h => F32.clampf_of_isNaN h _ _, fun h => F32.clampf_of_below h _,
    F32.clampf_of_above hrange, F32.clampf_of_within⟩, _, exec_wrColor hc s, colorOf_toNat s.cmd.operands.a⟩

/-! ## The voltage (R192, R193) -/

theorem sanitize_of_isNaN {x : F32} (h : x.isNaN = true) : sanitize x = Config.vSet := by
  simp [sanitize, h]

/-- Past the NaNs, sanitising is the clamp to 0.0..3.3. -/
theorem sanitize_of_number {x : F32} (h : x.isNaN = false) : sanitize x = F32.clampf x Config.vMin Config.vMax := by
  simp [sanitize, F32.clampf, h]

theorem sanitize_of_below {x : F32} (h : F32.lt x Config.vMin = true) : sanitize x = Config.vMin := by
  rw [sanitize_of_number (F32.lt_eq_true.mp h).1, F32.clampf_of_below h]

theorem sanitize_of_above {x : F32} (h : F32.lt Config.vMax x = true) : sanitize x = Config.vMax := by
  have hrange : F32.le Config.vMin Config.vMax = true := by decide +kernel
  rw [sanitize_of_number (F32.lt_eq_true.mp h).2.1, F32.clampf_of_above hrange h]

theorem sanitize_of_within {x : F32} (hlo : F32.le Config.vMin x = true) (hhi : F32.le x Config.vMax = true) :
    sanitize x = x := by
  rw [sanitize_of_number (F32.le_eq_true.mp hhi).1, F32.clampf_of_within hlo hhi]

theorem tension_of_above {v : F32} (h : F32.lt Config.vTaut v = true) : tension v = .taut := by
  simp [tension, h]

/-- A slack voltage is not taut: 1.45 lies below 1.85. -/
theorem tension_of_below {v : F32} (h : F32.lt v Config.vSlack = true) : tension v = .slack := by
  have hbounds : F32.le Config.vSlack Config.vTaut = true := by decide +kernel
  have htaut : F32.lt Config.vTaut v = false :=
    Bool.eq_false_iff.mpr fun ht => by simp [F32.not_below_of_above hbounds ht] at h
  simp [tension, htaut, h]

theorem tension_of_between {v : F32} (ht : F32.lt Config.vTaut v = false) (hs : F32.lt v Config.vSlack = false) :
    tension v = .normal := by
  simp [tension, ht, hs]

/-! ## The presence (R194) -/

section
variable {c : Fin Config.nch} {x : Sensors} {k : Channel}

theorem presenceEvents_of_change (h : x.pin ≠ k.pres) : presenceEvents c x k = [.presence c x.pin] := by
  simp [presenceEvents, h]

theorem presenceEvents_of_same (h : x.pin = k.pres) : presenceEvents c x k = [] := by
  simp [presenceEvents, h]

/-- A sample without a 1 → 0 change of PIN against PRES is no loss. -/
theorem not_lost (h : k.pres = false ∨ x.pin = true) : (k.pres && !x.pin) = false := by
  rcases h with h | h <;> simp [h]

end

/-- Settles O40: each half of a sample by its cases, read off SAMPLE's update of the channel. -/
theorem sampleVoltageAndPresence : Obligations.SampleVoltageAndPresence := by
  intro s ch c hc
  refine ⟨_, exec_sample hc s, ?_⟩
  simp only [State.chan_setChan_res, State.chan_setChan_self, sampleChannel_eq, true_and]
  refine ⟨sanitize_of_isNaN, sanitize_of_below, sanitize_of_above, sanitize_of_within, tension_of_above, tension_of_below,
    tension_of_between, fun hp hx => ?lost, fun h => ?kept, fun h => ?changed, fun h => ?same⟩
  case lost => simp [hp, hx]
  case kept => simp [not_lost h]
  case changed => rw [presenceEvents_of_change h]
  case same => rw [presenceEvents_of_same h]; rfl

/-! ## The encoder (R195..R198) -/

/-- A difference of two 12-bit angles wraps into −2048..2047, and by whole revolutions (R196). -/
theorem wrap12_bounds_dvd {d : Int} (hlo : -4096 < d) (hhi : d < 4096) :
    -2048 ≤ wrap12 d ∧ wrap12 d ≤ 2047 ∧ (4096 : Int) ∣ wrap12 d - d := by
  rw [wrap12_eq]
  split
  · omega
  · split <;> omega

/-- The encoder delta of a channel that holds a baseline (R196). -/
theorem encDelta_bounds_dvd {k : Channel} {enc : BitVec 16} {d : Int} (h : k.encValid = true)
    (hd : encDelta k (enc.extractLsb' 0 Config.encBits) = d) :
    -2048 ≤ d ∧ d ≤ 2047 ∧ (4096 : Int) ∣ d - ((enc.toNat % 4096 : Nat) - (k.encPrev.toNat : Int)) := by
  have hprev : k.encPrev.toNat < 4096 := k.encPrev.isLt
  rw [← hd, encDelta, if_pos h, (angle_toNat enc).1]
  exact wrap12_bounds_dvd (by omega) (by omega)

section
variable {k : Channel} {now : BitVec 64}

theorem encDelta_baseline (h : k.encValid = false) (raw : BitVec Config.encBits) : encDelta k raw = 0 := by
  simp [encDelta, h]

theorem elapsedMs_baseline (h : k.encValid = false) : elapsedMs k now = 0 := by
  simp [elapsedMs, h]

theorem elapsedMs_forward (h : k.encValid = true) (ht : k.tPrev.toNat ≤ now.toNat) :
    elapsedMs k now = now.toNat - k.tPrev.toNat := by
  simp [elapsedMs, h, ht]

theorem elapsedMs_back (h : k.encValid = true) (ht : now.toNat < k.tPrev.toNat) : elapsedMs k now = 0 := by
  simp [elapsedMs, h, Nat.not_le.mpr ht]

end

/-- Replacing one channel and RES leaves everything else as it was (R191). -/
theorem sameOutsideChannel_setChan (c : Fin Config.nch) (s : State) (k : Channel) (r : Result) :
    SameOutsideChannel c s { s.setChan c k with res := r } where
  framer := ⟨rfl, rfl, rfl, rfl, rfl, fun _ => rfl⟩
  stage := ⟨rfl, rfl, rfl, fun _ => rfl⟩
  chans _ hd := State.chan_setChan_ne s hd k
  lite := rfl
  cmd := rfl
  inbox := rfl

/-- Settles O41, with the delta and the elapsed time that SAMPLE computes; NUM is binary32's. -/
theorem sampleEncoderAndFrame : Obligations.SampleEncoderAndFrame := by
  intro s ch c hc
  refine ⟨_, encDelta (s.chan c) ((s.sensors c).enc.extractLsb' 0 Config.encBits), elapsedMs (s.chan c) s.now,
    exec_sample hc s, ?_⟩
  simp only [State.chan_setChan_res, State.chan_setChan_self, sampleChannel_eq, F32.params_num, true_and]
  refine ⟨fun h => ⟨encDelta_baseline h _, elapsedMs_baseline h⟩, fun h => ?later, (angle_toNat _).1, rfl, rfl,
    fun h => if_pos h, fun h => if_neg (by omega), rfl, sameOutsideChannel_setChan c s _ _⟩
  case later =>
    obtain ⟨hlo, hhi, hdvd⟩ := encDelta_bounds_dvd h rfl
    exact ⟨hlo, hhi, hdvd, elapsedMs_forward h, elapsedMs_back h⟩

/-! ## TICK -/

/-- The registers of a channel that TICK answers: SAMPLE, then RUN, of that channel alone (R248). -/
theorem chan_of_exec_tick {s t : State} (h : exec .tick s = .next t) (c : Fin Config.nch) :
    t.chan c = runChannel Config.params s.lite s.now (sampleChannel Config.params s.now (s.sensors c) (s.chan c)) := by
  rw [exec_tick] at h
  injection h with h
  rw [← h, State.chan_withRes, tickAll_chan]

/-- Settles O57: what TICK leaves in a channel is a function of its registers, its ports, NOW and LITE. -/
theorem tickChannelsAreIndependent : Obligations.TickChannelsAreIndependent := by
  intro s s' t t' c hchan hsensors hnow hlite h h'
  rw [chan_of_exec_tick h, chan_of_exec_tick h', hchan, hsensors, hnow, hlite]

end Sys2Proof.Machine
end

section
/-! PROOFS. The controllers, the shaping, the mode and configuration writes, the output laws of RUN, and TICK
(spec/43_motor_pid.md R220..R250): each law's update of a channel said once, and what an operation can do to MOTION and
PWM. -/

namespace Sys2Proof.Machine

/-! ## The PID primitive (R220..R224) -/

/-- Settles O45: both the output and the stored integral end in a clamp to ±1000, whatever NUM computes before it. -/
theorem pidStepIsClamped : Obligations.PidStepIsClamped := fun num g p e dt =>
  ⟨within_clampTo_outLim _, within_pidAfter num g p e dt⟩

/-- Settles O43, for either selector. -/
theorem pidClearClearsOne : Obligations.PidClearClearsOne := fun s _ _ hc =>
  ⟨exec_pidClear hc s .speed, exec_pidClear hc s .pressure⟩

/-- The operands that PID_STEP refuses (R221). -/
theorem pidOperandsBad_eq_true {e dt : F32} :
    pidOperandsBad e dt = true ↔ e.isFinite = false ∨ dt.isFinite = false ∨ F32.lt dt Config.zero = true := by
  simp [pidOperandsBad, or_assoc]

/-- A finite error and a finite time of at least 0.0, −0.0 among them, are not refused. -/
theorem pidOperandsBad_eq_false {e dt : F32} (he : e.isFinite = true) (hdt : dt.isFinite = true)
    (hpos : F32.le Config.zero dt = true) : pidOperandsBad e dt = false := by
  simp [pidOperandsBad, he, hdt, F32.lt_eq_false_of_le hpos]

/-- Settles O44: with NUM at binary32 and the selected gains, the rule's terms are those of the model's step. -/
theorem pidStepResult : Obligations.PidStepResult := by
  intro s ch c hc e dt integral out deriv gs gp ps pp he hdt hpos
  have hok : pidOperandsBad s.opA s.opB = false := pidOperandsBad_eq_false he hdt hpos
  exact ⟨exec_pidStep hc s .speed hok, exec_pidStep hc s .pressure hok⟩

/-! ## Refused operands (spec/60_exceptions.md R270) -/

section
variable {ch : BitVec 3} {c : Fin Config.nch} (h : ch.toNat = c.val) (s : State)
include h

theorem exec_setMotion_refused {mode : BitVec 3} (hm : Motion.ofCode mode = none) :
    exec (.setMotion ch mode) s = .next { s with res := Result.ofStatus .eOperand } := by
  simp [exec, execSetMotion, withChannel_of_lt h, hm, raise_eq]

theorem exec_pidStep_refused (sel : Sel) (hbad : pidOperandsBad s.opA s.opB = true) :
    exec (.pidStep ch sel) s = .next { s with res := Result.ofStatus .eOperand } := by
  simp [exec, execPidStep, withChannel_of_lt h, hbad, raise_eq]

theorem exec_setVelocity_refused (hbad : s.opA.isFinite = false ∨ s.opB.isFinite = false) :
    exec (.setVelocity ch) s = .next { s with res := Result.ofStatus .eOperand } := by
  simp [exec, execSetVelocity, withChannel_of_lt h, hbad, raise_eq]

theorem exec_cfgCh_refused (dir : Bool) (hbad : s.opA.isFinite = false ∨ F32.lt s.opA Config.zero = true) :
    exec (.cfgCh ch dir) s = .next { s with res := Result.ofStatus .eOperand } := by
  simp [exec, execCfgCh, withChannel_of_lt h, hbad, raise_eq]

end

/-- Settles O10: each operation past the channel check refuses its own illegal values. -/
theorem illegalOperands : Obligations.IllegalOperands := by
  intro s ch sel dir hch
  obtain ⟨c, hc⟩ : ∃ c : Fin Config.nch, ch.toNat = c.val := ⟨⟨ch.toNat, hch⟩, rfl⟩
  exact ⟨exec_setMotion_refused hc s rfl, fun hbad => exec_pidStep_refused hc s sel (pidOperandsBad_eq_true.mpr hbad),
    exec_setVelocity_refused hc s, exec_cfgCh_refused hc s dir⟩

/-! ## The mode write of SET_VELOCITY, the configuration writes and the report (R229..R231, R250) -/

/-- Settles O48: the targets are written first, and then the mode. -/
theorem setVelocityResult : Obligations.SetVelocityResult := by
  intro s ch c hc ha hb
  rw [exec_setVelocity hc s ha hb]
  obtain ⟨hsame, e⟩ | ⟨hchange, e⟩ :=
    setMode_cases .velocity { s.chan c with tv := s.opA, td := s.opB, ad := Config.zero } <;> rw [e]
  · exact ⟨fun hne => absurd hsame hne, fun _ => rfl⟩
  · exact ⟨fun _ => rfl, fun heq => absurd heq hchange⟩

/-- Settles O49: an operand of at least 0.0 is not below it. -/
theorem configurationWrites : Obligations.ConfigurationWrites :=
  ⟨fun s _ _ dir hc ha hpos => exec_cfgCh hc s dir ha (F32.lt_eq_false_of_le hpos), fun _ _ => rfl⟩

/-- A report shows a finite value as it is and any other as 0.0 (R250). -/
theorem finiteOrZero_reports (x : F32) :
    (x.isFinite = true → F32.finiteOrZero x = x) ∧ (x.isFinite = false → F32.finiteOrZero x = Config.zero) := by
  constructor <;> intro h <;> simp [F32.finiteOrZero, h]

/-- Settles O60, register by register. -/
theorem rdChReports : Obligations.RdChReports := by
  intro s ch c hc
  refine ⟨_, exec_rdCh hc s, rfl, rfl, rfl, rfl, rfl, rfl, rfl, rfl, rfl, ?_⟩
  simp only [reportOf, List.forall_mem_cons, List.not_mem_nil, false_implies, implies_true, and_true]
  exact ⟨finiteOrZero_reports _, finiteOrZero_reports _, finiteOrZero_reports _, finiteOrZero_reports _,
    finiteOrZero_reports _, finiteOrZero_reports _, finiteOrZero_reports _, finiteOrZero_reports _,
    finiteOrZero_reports _⟩

/-! ## Shaping (R227) -/

/-- Truncation of a value in [−1000, 1000] is the quotient of its units of 2^-149, rounded toward zero. -/
theorem trunc16_toInt_eq_tdiv {y : F32} (h : Within (F32.negate Config.outLim) Config.outLim y) :
    (F32.trunc16 y).toInt = y.value.tdiv (2 ^ 149) := by
  rw [trunc16_toInt h]
  cases hy : y.neg with
  | false => rw [F32.value_nonneg hy]; rfl
  | true => rw [F32.value_neg hy, Int.neg_tdiv]; rfl

/-- A quotient rounded toward zero holds the whole part of the magnitude, and has the dividend's sign unless it is 0. -/
theorem tdiv_toward_zero (v : Int) {n : Nat} (hn : 0 < n) :
    (v.tdiv n).natAbs * n ≤ v.natAbs ∧ v.natAbs < ((v.tdiv n).natAbs + 1) * n ∧
      (0 < v.tdiv n → 0 < v) ∧ (v.tdiv n < 0 → v < 0) := by
  rw [Int.natAbs_tdiv, Int.natAbs_natCast]
  refine ⟨Nat.div_mul_le_self _ _, ?_, fun h => ?_, fun h => ?_⟩
  · rw [Nat.mul_comm]; exact Nat.lt_mul_div_succ _ hn
  · by_contra hv
    have := Int.tdiv_nonneg (a := -v) (by omega) (Int.natCast_nonneg n)
    rw [Int.neg_tdiv] at this
    omega
  · by_contra hv
    have := Int.tdiv_nonneg (Int.not_lt.mp hv) (Int.natCast_nonneg n)
    omega

/-- Settles O46, by what shaping can answer: 0 in the deadband, and otherwise a truncation toward zero. -/
theorem pwmShapeResult : Obligations.PwmShapeResult := by
  intro s ch c hc x y
  obtain ⟨hlow, hhigh⟩ := shape_range Config.params.num x (s.chan c).pwmZero
  refine ⟨_, exec_pwmShape hc s, hlow, hhigh, ?_⟩
  obtain ⟨hzero, hrest⟩ | ⟨hnum, hmoves, hshape⟩ := shape_cases Config.params.num x (s.chan c).pwmZero
  · exact ⟨fun _ => hzero, fun _ => hzero, fun hnum hmoves =>
      hrest.elim (absurd · (Bool.eq_false_iff.mp hnum)) (absurd · (Bool.eq_false_iff.mp hmoves))⟩
  · have htrunc : (shape Config.params.num x (s.chan c).pwmZero).toInt = y.value.tdiv ((2 ^ 149 : Nat) : Int) := by
      rw [hshape]; exact trunc16_toInt_eq_tdiv (within_clampTo_outLim _)
    refine ⟨(absurd · (Bool.eq_false_iff.mp hnum)), (absurd · (Bool.eq_false_iff.mp hmoves)), fun _ _ => ?_⟩
    rw [htrunc]
    exact tdiv_toward_zero y.value (by positivity)

/-! ## RUN, law by law (R232..R242) -/

section
variable {p : Config.Params} {lite : Bool} {now : BitVec 64} {k : Channel}

theorem applyLaw_stop (h : k.motion = .stop) : applyLaw p lite now k = lawStop k := by
  simp [applyLaw, h]

theorem applyLaw_send (h : k.motion = .send) : applyLaw p lite now k = lawSpeed p (sendTarget p lite k.v) k := by
  simp [applyLaw, h]

theorem applyLaw_slowSend (h : k.motion = .slowSend) : applyLaw p lite now k = lawSpeed p p.vSlow k := by
  simp [applyLaw, h]

theorem applyLaw_pull (h : k.motion = .pull) : applyLaw p lite now k = lawSpeed p p.vPull k := by
  simp [applyLaw, h]

theorem applyLaw_pressureIdle (h : k.motion = .pressureIdle) : applyLaw p lite now k = lawIdle p now k := by
  simp [applyLaw, h]

theorem applyLaw_pressureInUse (h : k.motion = .pressureInUse) : applyLaw p lite now k = lawInUse p k := by
  simp [applyLaw, h]

theorem applyLaw_velocity (h : k.motion = .velocity) : applyLaw p lite now k = lawVelocity p k := by
  simp [applyLaw, h]

theorem lawIdle_present (h : k.pres = true) :
    lawIdle p now k = drivePid p .pressure (p.num.sub k.v Config.vSet) k := by
  simp [lawIdle, h]

/-- Without filament the idle law writes PWM alone; its undriven output 0.0 is in the deadband (R236). -/
theorem lawIdle_absent (h : k.pres = false) :
    lawIdle p now k =
      { k with pwm :=
          if assistActive p now k then shape p.num (p.num.mul (dirf k.dir) p.assistPwm) k.pwmZero else 0 } := by
  cases ha : assistActive p now k <;> simp [lawIdle, h, ha, drive, shape_zero]

/-- The in-use law controls outside the band and while latched (R238). -/
theorem inUseActive_eq_true {latch : Bool} {v : F32} :
    inUseActive latch v = true ↔
      (F32.lt v Config.vSet = true ∨ F32.lt Config.vBandHi v = true) ∨ latch = true := by
  rw [inUseActive, Bool.or_assoc, Bool.or_eq_true, Bool.or_eq_true, or_comm]

theorem lawInUse_active (h : inUseActive (latchAfter k.latch k.v) k.v = true) :
    lawInUse p k =
      drivePid p .pressure (p.num.sub k.v Config.vSet) { k with latch := latchAfter k.latch k.v } := by
  simp [lawInUse, h]

theorem lawInUse_inactive (h : inUseActive (latchAfter k.latch k.v) k.v = false) :
    lawInUse p k = { k with latch := latchAfter k.latch k.v, pwm := 0 } := by
  simp [lawInUse, h, drive, shape_zero]

/-- The RUN that completes a move ends in stop, by the mode write (R241, R242). -/
theorem lawVelocity_reached (hm : k.motion = .velocity) (h : moveReached p.num k = true) :
    lawVelocity p k =
      { k with ad := adAfter p.num k, motion := .stop, pids := Pid.cleared, pidp := Pid.cleared, latch := false,
               pwm := 0 } := by
  simp [lawVelocity, h, setMode, hm]

theorem lawVelocity_moving (h : moveReached p.num k = false) :
    lawVelocity p k = drivePid p .speed (p.num.sub k.speed k.tv) { k with ad := adAfter p.num k } := by
  simp [lawVelocity, h]

end

/-! ## The latch (R239) -/

section
variable {latch : Bool} {v : F32}

theorem latchAfter_of_below (h : F32.lt v Config.vRelease = true) : latchAfter latch v = false := by
  simp [latchAfter, h]

theorem latchAfter_of_above (hr : F32.lt v Config.vRelease = false) (hb : F32.lt Config.vBandHi v = true) :
    latchAfter latch v = true := by
  simp [latchAfter, hr, hb]

theorem latchAfter_of_between (hr : F32.lt v Config.vRelease = false) (hb : F32.lt Config.vBandHi v = false) :
    latchAfter latch v = latch := by
  simp [latchAfter, hr, hb]

end

/-! ## RUN's results -/

/-- Only the RUN that completes a move raises an event (R242). -/
theorem moveEvents_eq_nil {num : Config.Num} {k : Channel} (h : k.motion ≠ .velocity ∨ moveReached num k = false)
    (c : Fin Config.nch) : moveEvents num c k = [] := by
  rcases h with h | h <;> simp [moveEvents, h]

section
variable {ch : BitVec 3} {c : Fin Config.nch} (hc : ch.toNat = c.val) (s : State) {k : Channel}
include hc

/-- RUN that completes no move: the law, then the LED, and status OK alone. -/
theorem exec_run_of_law
    (hm : (s.chan c).motion ≠ .velocity ∨ moveReached Config.params.num (s.chan c) = false)
    (hlaw : applyLaw Config.params s.lite s.now (s.chan c) = k) :
    exec (.run ch) s =
      .next { s.setChan c { k with led := ledOf (s.chan c).tens (s.chan c).pres (s.chan c).color } with
        res := Result.ofStatus .ok } := by
  rw [exec_run hc s, moveEvents_eq_nil hm, runChannel, hlaw]; rfl

/-- RUN that completes a move: the law, then the LED, and EV_MOVE_DONE. -/
theorem exec_run_of_reached (hm : (s.chan c).motion = .velocity)
    (hr : moveReached Config.params.num (s.chan c) = true)
    (hlaw : applyLaw Config.params s.lite s.now (s.chan c) = k) :
    exec (.run ch) s =
      .next { s.setChan c { k with led := ledOf (s.chan c).tens (s.chan c).pres (s.chan c).color } with
        res := { Result.ofStatus .ok with events := [.moveDone c] } } := by
  rw [exec_run hc s, moveEvents, if_pos ⟨hm, hr⟩, runChannel, hlaw]

end

/-- Settles O50. -/
theorem runInStop : Obligations.RunInStop := fun s _ _ hc hm =>
  ⟨_, exec_run_of_law hc s (.inl (ne_of_eq_of_ne hm (by decide))) (applyLaw_stop hm)⟩

/-- Settles O51: the three modes run one law, with the target that their row of the table names. -/
theorem runSpeedLaws : Obligations.RunSpeedLaws := by
  intro s ch c hc k p dir follows
  exact ⟨fun hm => ⟨_, exec_run_of_law hc s (.inl (ne_of_eq_of_ne hm (by decide))) (applyLaw_send hm)⟩,
    fun hm => ⟨_, exec_run_of_law hc s (.inl (ne_of_eq_of_ne hm (by decide))) (applyLaw_slowSend hm)⟩,
    fun hm => ⟨_, exec_run_of_law hc s (.inl (ne_of_eq_of_ne hm (by decide))) (applyLaw_pull hm)⟩⟩

/-- Settles O52, by presence. -/
theorem runInPressureIdle : Obligations.RunInPressureIdle := by
  intro s ch c hc hm k p dir e assist
  have hlaw := applyLaw_pressureIdle (p := p) (lite := s.lite) (now := s.now) hm
  exact ⟨_, fun hp => exec_run_of_law hc s (.inl (ne_of_eq_of_ne hm (by decide))) (hlaw.trans (lawIdle_present hp)),
    fun hp => exec_run_of_law hc s (.inl (ne_of_eq_of_ne hm (by decide))) (hlaw.trans (lawIdle_absent hp))⟩

/-- Settles O53, by whether the law controls at V with the latch as the sample leaves it. -/
theorem runInPressureInUse : Obligations.RunInPressureInUse := by
  intro s ch c hc hm k p dir e outside
  have hlaw := applyLaw_pressureInUse (p := p) (lite := s.lite) (now := s.now) hm
  refine ⟨ledOf k.tens k.pres k.color, latchAfter k.latch k.v, latchAfter_of_below, latchAfter_of_above,
    latchAfter_of_between, fun h => ?_, fun h => ?_⟩
  · have hactive := inUseActive_eq_true.mpr h
    exact exec_run_of_law hc s (.inl (ne_of_eq_of_ne hm (by decide))) (hlaw.trans (lawInUse_active hactive))
  · have hinactive := Bool.eq_false_iff.mpr (mt inUseActive_eq_true.mp h)
    exact exec_run_of_law hc s (.inl (ne_of_eq_of_ne hm (by decide))) (hlaw.trans (lawInUse_inactive hinactive))

/-- Settles O54, by whether the travel reaches the target. -/
theorem runInVelocity : Obligations.RunInVelocity := by
  intro s ch c hc hm k p dir e ad
  have hlaw := applyLaw_velocity (p := p) (lite := s.lite) (now := s.now) hm
  exact ⟨_, fun hr => exec_run_of_reached hc s hm hr (hlaw.trans (lawVelocity_reached hm hr)),
    fun hr => exec_run_of_law hc s (.inr hr) (hlaw.trans (lawVelocity_moving hr))⟩

/-- Settles O55: the LED law by its cases, and RUN's frame. -/
theorem runLedAndFrame : Obligations.RunLedAndFrame := by
  intro s ch c hc
  refine ⟨_, exec_run hc s, ?_⟩
  obtain ⟨m, ps, pp, ad, latch, pwm, e⟩ := runChannel_frame Config.params s.lite s.now (s.chan c)
  simp only [State.chan_setChan_res, State.chan_setChan_self, e, true_and]
  refine ⟨fun h => ?taut, fun h => ?slack, fun h hp => ?present, fun h hp => ?absent,
    sameOutsideChannel_setChan c s _ _⟩
  case taut => rw [h]; rfl
  case slack => rw [h]; rfl
  case present => rw [h, hp]; rfl
  case absent => rw [h, hp]; rfl

/-! ## TICK (R248) -/

/-- Settles O56: SAMPLE and RUN read nothing of RES, so the eight operations run one after the other are TICK's eight
sub-operations. -/
theorem tickIsFourSamplesThenFourRuns : Obligations.TickIsFourSamplesThenFourRuns := by
  intro s
  have h0 : (0 : BitVec 3).toNat = (0 : Fin Config.nch).val := rfl
  have h1 : (1 : BitVec 3).toNat = (1 : Fin Config.nch).val := rfl
  have h2 : (2 : BitVec 3).toNat = (2 : Fin Config.nch).val := rfl
  have h3 : (3 : BitVec 3).toNat = (3 : Fin Config.nch).val := rfl
  refine ⟨_, _, _, _, _, _, _, _, _, exec_sample_at h0 s, exec_sample_at h1 _, exec_sample_at h2 _, exec_sample_at h3 _,
    exec_run_at h0 _, exec_run_at h1 _, exec_run_at h2 _, exec_run_at h3 _, exec_tick s, ?_⟩
  obtain ⟨cs, hframe⟩ := tickAll_frame Config.params s
  refine ⟨fun k => ?chans, ?events, ?frame⟩
  case chans => simp only [State.chan_withRes, tickAll, eachChannel_eq, sampleAt_withRes, runAt_withRes]
  case events =>
    simp only [tickAll, eachChannel_eq, sampleAt_withRes, runAt_withRes, List.append_assoc]
  case frame =>
    rw [hframe]
    exact ⟨⟨rfl, rfl, rfl, rfl, rfl, fun _ => rfl⟩, ⟨rfl, rfl, rfl, fun _ => rfl⟩, rfl, rfl, rfl⟩

/-! ## MOTION and PWM under every operation (R243, R244) -/

/-- What an operation can do to MOTION and PWM of a channel: write them by TICK or by RUN, write a mode, or leave both. -/
theorem exec_chan_cases {i : Instr} {s t : State} (h : exec i s = .next t) (c : Fin Config.nch) :
    (i = .tick ∧ t.chan c =
      runChannel Config.params s.lite s.now (sampleChannel Config.params s.now (s.sensors c) (s.chan c))) ∨
    (∃ ch, i = .run ch ∧ t.chan c = runChannel Config.params s.lite s.now (s.chan c)) ∨
    (∃ m k, k.motion = (s.chan c).motion ∧ k.pwm = (s.chan c).pwm ∧ t.chan c = setMode m k) ∨
    ((t.chan c).motion = (s.chan c).motion ∧ (t.chan c).pwm = (s.chan c).pwm) := by
  obtain ⟨r, rfl⟩ | ⟨b, -, rfl⟩ | ⟨-, e⟩ | ⟨-, e⟩ | ⟨l, -, e⟩ | ⟨rfl, -⟩ | ⟨ch, d, k, -, e, hk⟩ := exec_cases h
  · exact .inr (.inr (.inr ⟨rfl, rfl⟩))
  · rw [feedByte_frame]; exact .inr (.inr (.inr ⟨rfl, rfl⟩))
  · rw [e]; exact .inr (.inr (.inr ⟨rfl, rfl⟩))
  · rw [e]; exact .inr (.inr (.inr ⟨rfl, rfl⟩))
  · rw [e]; exact .inr (.inr (.inr ⟨rfl, rfl⟩))
  · exact .inl ⟨rfl, chan_of_exec_tick h c⟩
  · by_cases hcd : c = d
    · subst hcd
      have hchan : t.chan c = k := by rw [e, State.chan_withRes, State.chan_setChan_self]
      rw [hchan]
      obtain ⟨-, rfl⟩ | ⟨rfl, rfl⟩ | ⟨sel, -, rfl⟩ | ⟨sel, -, rfl⟩ | ⟨_, m, -, -, rfl⟩ | ⟨-, -, -, rfl⟩ | ⟨-, rfl⟩ |
        ⟨-, rfl⟩ | ⟨d, -, -, -, rfl⟩ := hk
      · rw [sampleChannel_eq]; exact .inr (.inr (.inr ⟨rfl, rfl⟩))
      · exact .inr (.inl ⟨ch, rfl, rfl⟩)
      · cases sel <;> exact .inr (.inr (.inr ⟨rfl, rfl⟩))
      · cases sel <;> exact .inr (.inr (.inr ⟨rfl, rfl⟩))
      · exact .inr (.inr (.inl ⟨m, _, rfl, rfl, rfl⟩))
      · exact .inr (.inr (.inl
          ⟨.velocity, { s.chan c with tv := s.opA, td := s.opB, ad := Config.zero }, rfl, rfl, rfl⟩))
      · exact .inr (.inr (.inr ⟨rfl, rfl⟩))
      · exact .inr (.inr (.inr ⟨rfl, rfl⟩))
      · exact .inr (.inr (.inr ⟨rfl, rfl⟩))
    · rw [e, State.chan_withRes, State.chan_setChan_ne s hcd]; exact .inr (.inr (.inr ⟨rfl, rfl⟩))

/-- A mode write leaves PWM (R228). -/
theorem setMode_pwm (m : Motion) (k : Channel) : (setMode m k).pwm = k.pwm := by
  obtain ⟨-, e⟩ | ⟨-, e⟩ := setMode_cases m k <;> rw [e]

/-- Settles O58. -/
theorem onlyRunAndTickChangePwm : Obligations.OnlyRunAndTickChangePwm := by
  intro i s t c h hpwm
  obtain ⟨hi, -⟩ | ⟨ch, hi, -⟩ | ⟨m, k, -, hk, e⟩ | ⟨-, hkeep⟩ := exec_chan_cases h c
  · exact .inl hi
  · exact .inr ⟨ch, hi⟩
  · exact absurd (by rw [State.pwmOut, e, setMode_pwm, hk]; rfl) hpwm
  · exact absurd hkeep hpwm

/-- Both controllers are cleared and the latch is released. -/
def ModeCleared (k : Channel) : Prop :=
  k.pids = Pid.cleared ∧ k.pidp = Pid.cleared ∧ k.latch = false

/-- A mode write that changes the mode clears (R228). -/
theorem modeCleared_setMode {m : Motion} {k : Channel} (h : (setMode m k).motion ≠ k.motion) :
    ModeCleared (setMode m k) := by
  obtain ⟨-, e⟩ | ⟨-, e⟩ := setMode_cases m k <;> rw [e] at h ⊢
  · exact absurd rfl h
  · exact ⟨rfl, rfl, rfl⟩

theorem drivePid_motion (p : Config.Params) (sel : Sel) (e : F32) (k : Channel) :
    (drivePid p sel e k).motion = k.motion := by
  cases sel <;> rfl

theorem lawIdle_motion (p : Config.Params) (now : BitVec 64) (k : Channel) : (lawIdle p now k).motion = k.motion := by
  cases hp : k.pres with
  | true => rw [lawIdle_present hp, drivePid_motion]
  | false => rw [lawIdle_absent hp]

theorem lawInUse_motion (p : Config.Params) (k : Channel) : (lawInUse p k).motion = k.motion := by
  cases ha : inUseActive (latchAfter k.latch k.v) k.v with
  | true => rw [lawInUse_active ha, drivePid_motion]
  | false => rw [lawInUse_inactive ha]

/-- Only the completion of a move changes the mode in RUN, and it clears (R242). -/
theorem modeCleared_runChannel {p : Config.Params} {lite : Bool} {now : BitVec 64} {k : Channel}
    (h : (runChannel p lite now k).motion ≠ k.motion) : ModeCleared (runChannel p lite now k) := by
  change (applyLaw p lite now k).motion ≠ k.motion at h
  change ModeCleared (applyLaw p lite now k)
  cases hm : k.motion with
  | stop => rw [applyLaw_stop hm] at h; exact absurd rfl h
  | send => rw [applyLaw_send hm] at h; exact absurd (drivePid_motion _ _ _ _) h
  | slowSend => rw [applyLaw_slowSend hm] at h; exact absurd (drivePid_motion _ _ _ _) h
  | pull => rw [applyLaw_pull hm] at h; exact absurd (drivePid_motion _ _ _ _) h
  | pressureIdle => rw [applyLaw_pressureIdle hm] at h; exact absurd (lawIdle_motion _ _ _) h
  | pressureInUse => rw [applyLaw_pressureInUse hm] at h; exact absurd (lawInUse_motion _ _) h
  | velocity =>
    rw [applyLaw_velocity hm] at h ⊢
    cases hr : moveReached p.num k with
    | true => rw [lawVelocity_reached hm hr]; exact ⟨rfl, rfl, rfl⟩
    | false => rw [lawVelocity_moving hr] at h; exact absurd (drivePid_motion _ _ _ _) h

theorem sampleChannel_motion (p : Config.Params) (now : BitVec 64) (x : Sensors) (k : Channel) :
    (sampleChannel p now x k).motion = k.motion := by
  rw [sampleChannel_eq]

/-- Settles O59: a mode changes by a mode write or by RUN's completion of a move, and both clear. -/
theorem modeChangesAlwaysClear : Obligations.ModeChangesAlwaysClear := by
  intro i s t c h hmotion
  change ModeCleared (t.chan c)
  obtain ⟨-, e⟩ | ⟨ch, -, e⟩ | ⟨m, k, hk, -, e⟩ | ⟨hkeep, -⟩ := exec_chan_cases h c
  · rw [e] at hmotion ⊢
    exact modeCleared_runChannel (by rwa [sampleChannel_motion])
  · rw [e] at hmotion ⊢
    exact modeCleared_runChannel hmotion
  · rw [e] at hmotion ⊢
    exact modeCleared_setMode (by rwa [hk])
  · exact absurd hkeep hmotion

end Sys2Proof.Machine
end

section
/-! PROOFS. What an operation that ends with an error does (spec/60_exceptions.md R270), and that none stops the block
(R274). Every operation ends in `finish` or `raise`, behind the channel check or a check of its operands. -/

namespace Sys2Proof.Machine

/-! ## Operations that end with an error (R270) -/

/-- If the outcome of an operation on `s` has a nonzero status, it wrote RES alone and emitted no event. -/
def ErrorsWriteResOnly (s : State) (o : Host.Outcome State Fault Refusal) : Prop :=
  ∀ t, o = .next t → t.res.status ≠ .ok → t = { s with res := t.res } ∧ t.res.events = []

/-- Status OK is no error, whatever state the operation answers. -/
theorem errorsWriteResOnly_finish_ok {r : Result} (hr : r.status = .ok) (s u : State) :
    ErrorsWriteResOnly s (finish r u) := by
  intro t h hne
  rw [finish_next h] at hne
  exact absurd hr hne

/-- A result that lists no event, over the old state, may have any status. -/
theorem errorsWriteResOnly_finish_eventless {r : Result} (hr : r.events = []) (s : State) :
    ErrorsWriteResOnly s (finish r s) := by
  intro t h _
  rw [finish_next h]
  exact ⟨rfl, hr⟩

theorem errorsWriteResOnly_raise (e : Status) (s : State) : ErrorsWriteResOnly s (raise e s) :=
  errorsWriteResOnly_finish_eventless rfl s

/-- A channel operation need only be judged on its channels in range: E_CHANNEL writes nothing. -/
theorem errorsWriteResOnly_withChannel {ch : BitVec 3} {s : State} {k : Fin Config.nch → Host.Outcome State Fault Refusal}
    (hk : ∀ c, ErrorsWriteResOnly s (k c)) : ErrorsWriteResOnly s (withChannel ch s k) := by
  obtain ⟨c, -, e⟩ | ⟨-, e⟩ := withChannel_cases ch s k
  · rw [e]; exact hk c
  · rw [e]; exact errorsWriteResOnly_raise .eChannel s

/-- A check of the operands before an operation that ends with status OK: the check comes before any write (R273). -/
theorem errorsWriteResOnly_checked {p : Prop} [Decidable p] {e : Status} {r : Result} (hr : r.status = .ok) (s u : State) :
    ErrorsWriteResOnly s (if p then raise e s else finish r u) := by
  split
  · exact errorsWriteResOnly_raise e s
  · exact errorsWriteResOnly_finish_ok hr s u

/-- IDENTIFY's E_LENGTH shows a kind in RES, and still no state is written (R153). -/
theorem errorsWriteResOnly_identified (n : Nat) (kind : PacketKind) (val : Option (BitVec 32)) (s : State) :
    ErrorsWriteResOnly s (identified n kind val s) := by
  unfold identified
  split <;> exact errorsWriteResOnly_finish_eventless rfl s

/-- FEED answers status OK for every byte: an invalid frame is a frame status, not an error (R123). -/
theorem feedByte_status (b : Byte) (s : State) : (feedByte b s).2.status = .ok := by
  cases hf : s.fs with
  | seeking => rw [feedByte_seeking hf]; rfl
  | framing =>
    rw [feedByte_framing hf]
    obtain ⟨-, e⟩ | ⟨-, -, -, e⟩ | ⟨-, -, -, e⟩ | ⟨-, -, -, i, -, e⟩ := frameByte_cases b s <;> rw [e] <;> rfl

/-- R270 for every operation, by where it can raise: nowhere, on its operands, on its channel, or on both. -/
theorem exec_errorsWriteResOnly (i : Instr) (s : State) : ErrorsWriteResOnly s (exec i s) := by
  cases i with
  | feed b => exact errorsWriteResOnly_finish_ok (feedByte_status b s) s _
  | nop | frmReset | rdpkt | rdfrm | tick | cfgDev _ => exact errorsWriteResOnly_finish_ok (by rfl) s _
  | crc8Calc | crc16Calc | parseLong | buildWithCrc | buildLong => exact errorsWriteResOnly_checked (by rfl) s s
  | identify | kindMotionShort _ | kindMotionLong _ | kindOnlineDetect _ | kindReqX6 _ | kindNfcDetect _
  | kindSetFilamentInfo _ | kindHeartbeat _ | kindShortOther _ _ | kindMcOnline _ | kindReadFilamentInfo _
  | kindSetFilamentInfoV2 _ | kindVersion _ | kindSerialNumber _ | kindLongOther _ _ | kindNone _ | kindUnknown _ =>
    exact errorsWriteResOnly_identified _ _ _ s
  | sample _ | run _ | pidClear _ _ | pwmShape _ | wrMeters _ | wrColor _ | rdCh _ =>
    simp only [exec, execSample, execRun, execPidClear, execPwmShape, execWrMeters, execWrColor, execRdCh]
    exact errorsWriteResOnly_withChannel fun _ => errorsWriteResOnly_finish_ok (by rfl) s _
  | pidStep _ _ | setVelocity _ | cfgCh _ _ =>
    simp only [exec, execPidStep, execSetVelocity, execCfgCh]
    exact errorsWriteResOnly_withChannel fun _ => errorsWriteResOnly_checked (by rfl) s _
  | setMotion ch mode =>
    simp only [exec, execSetMotion]
    refine errorsWriteResOnly_withChannel fun c => ?_
    cases Motion.ofCode mode with
    | none => exact errorsWriteResOnly_raise .eOperand s
    | some m => exact errorsWriteResOnly_finish_ok (by rfl) s _

/-- Settles O8. -/
theorem errorsWriteNothing : Obligations.ErrorsWriteNothing := exec_errorsWriteResOnly

/-! ## Nothing stops (R274) -/

/-- Settles O7: every operation ends with a result, and a step runs one, rejects a word or is idle. -/
theorem nothingEverStops : Obligations.NothingEverStops := ⟨exec_goes, step_goes⟩

end Sys2Proof.Machine
end

section
/-! PROOFS. The output ports right after reset (spec/70_reset_and_hazards.md R301): every channel is as R49 gives it, and PWM_OUT
and LED_OUT read two of its registers. -/

namespace Sys2Proof.Machine

/-- Reset puts every channel at R49's values. -/
@[simp] theorem State.chan_reset (c : Fin Config.nch) : State.reset.chan c = Channel.reset := by
  simp [State.chan, State.reset]

theorem State.pwmOut_reset (c : Fin Config.nch) : State.reset.pwmOut c = 0 := by
  rw [State.pwmOut, State.chan_reset]; rfl

theorem State.ledOut_reset (c : Fin Config.nch) : State.reset.ledOut c = ⟨0, 0, 0⟩ := by
  rw [State.ledOut, State.chan_reset]; rfl

/-- Settles O17: the ports show each channel's PWM and LED, and both are zero after reset. -/
theorem resetOutputsOff : Obligations.ResetOutputsOff := fun c => ⟨State.pwmOut_reset c, State.ledOut_reset c⟩

end Sys2Proof.Machine
end
